-- ==== Sys2Proof/Word.lean ====
section
/-! DEFINITION. The word types of the machine (spec 10_state R10, R13, R15; 30_encoding R37; 20_memory R25). -/

namespace Sys2Proof

/-- `GRLEN`, the width of a general register in bits (00_scope R9, 10_state R10; log 1). -/
abbrev grlen : Nat := 64

/-- A general register value or a program counter: `GRLEN` bits (R10, R13). -/
abbrev Word := BitVec 64

/-- One configuration information word: "each configuration information word contains up to 32 bits" (R15). -/
abbrev CfgWord := BitVec 32

/-- One instruction word (R37). -/
abbrev InsnWord := BitVec 32

/-- A byte of 8 bits (R25). -/
abbrev Byte := BitVec 8

end Sys2Proof
end

