-- ==== Sys2Proof/Config.lean ====
section
/-! DEFINITION. What is fixed for one machine and never changes during a run: the parameters `CFG` and `CPUCFG_EXT` of
00_scope R9, and the names of the configuration fields of 41 and 42. -/

namespace Sys2Proof

/-- The parameter `CPUCFG_EXT`: how a 32-bit configuration word is widened to `GRLEN` bits (40_cpucfg R48, D10). -/
inductive CpucfgExt where
  /-- Bits 63:32 are copies of bit 31, the spec's default. -/
  | sext
  /-- Bits 63:32 are zero. -/
  | zext
  deriving DecidableEq, Repr, Inhabited

/-- The parameters of the machine (10_state R17: the configuration words are "not part of the mutable state: no step
changes it"). -/
structure Config where
  /-- `CFG`: the 32-bit word of every word number, listed or not (R17, R19). -/
  cfg : Nat → CfgWord
  /-- `CPUCFG_EXT` (R48). -/
  ext : CpucfgExt
  deriving Inhabited

/-- The configuration of the chip at hand. It has no body, so that no proof can know a configuration word or the widening:
00_scope R3 forbids taking any value of the source's table for the chip's, and 92 D6, D8, D9, D10 leave these open. What is
proved of the machine holds whatever they are (log 5, 7, 8). -/
opaque Config.chip : Config

/-- The 71 fields of the eleven listed configuration words, in the order of the source's table (95_test_vectors S4). Names
are the spec's normalised ones (90_conflicts C2, C6). `Machine/CfgFields.lean` gives each its place and its example value. -/
inductive CfgField where
  /-- Word 0x0, "Processor Identity" (R53). -/
  | prid
  /-- Word 0x1: the architecture variant (R55). -/
  | arch
  /-- "the MMU supports page mapping mode" (R56). -/
  | pgmmu
  /-- "support for the IOCSR instruction" (R57). -/
  | iocsr
  /-- "supported physical address bits `PALEN` minus `1`" (R58). -/
  | palen
  /-- The supported virtual address bits `VALEN` minus 1 (R59). -/
  | valen
  /-- "support for non-aligned memory access" (R60). -/
  | ual
  /-- "support for the 'Read Inhibit' page attribute" (R61). -/
  | ri
  /-- "support for 'Execution Protection' page attribute" (R62). -/
  | ep
  /-- "support for `RPLV` page attributes" (R63). -/
  | rplv
  /-- "support for huge page page attributes" (R64). -/
  | hp
  /-- "a string with processor product information recorded at address `0` of the IOCSR access space" (R65). -/
  | iocsrBrd
  /-- The external interrupt mode: 1 message, 0 level line (R66). -/
  | msgInt
  /-- Word 0x2: "support for basic floating-point instructions" (R68). -/
  | fp
  /-- "support for single-precision floating-point numbers" (R69). -/
  | fpSp
  /-- "support for double-precision floating-point numbers" (R70). -/
  | fpDp
  /-- "The version number of the floating-point arithmetic standard" (R71). -/
  | fpVer
  /-- "support for 128-bit vector extension" (R72). -/
  | lsx
  /-- "support for 256-bit vector expansion" (R73). -/
  | lasx
  /-- "support for complex vector operation instructions" (R74). -/
  | complex
  /-- "support for constant frequency counter and timer" (R75). -/
  | llftp
  /-- "Constant frequency counter and timer version number" (R76). -/
  | llftpVer
  /-- "support for the software page table walking instruction" (R77). -/
  | lspw
  /-- "support `AM*` atomic memory access instruction" (R78). -/
  | lam
  /-- Word 0x3: "support for hardware Cache coherent DMA" (R80). -/
  | ccdma
  /-- "support for Store Fill Buffer (SFB)" (R81). -/
  | sfb
  /-- "support for LL instruction to fetch exclusive block function" (R82). -/
  | llexc
  /-- "support random delay function after SC" (R83). -/
  | scdly
  /-- "support LL automatic with dbar function" (R84). -/
  | lldbar
  /-- "the hardware maintains the consistency between ITLB and TLB" (R85). -/
  | itlbt
  /-- The hardware keeps ICache and DCache of one core consistent (R86). -/
  | icachet
  /-- "The maximum number of directory levels supported by the page walk instruction" (R87). -/
  | spwLvl
  /-- "the page walk instruction fills the TLB in half when it encounters a large page" (R88). -/
  | spwHpHf
  /-- "the software configuration can be used to shorten the virtual address range" (R89). -/
  | rva
  /-- `RVAMAX` minus 1 (R90, 90_conflicts C10). -/
  | rvamaxM1
  /-- Word 0x5: the multiplication factor of the timer's clock (R92). -/
  | ccMul
  /-- The division coefficient of the timer's clock (R93). -/
  | ccDiv
  /-- Word 0x6: "support for the performance counter" (R95). -/
  | pmp
  /-- The version of the architecture-defined events (R96). -/
  | pmver
  /-- "Number of performance monitors minus `1`" (R97). -/
  | pmnum
  /-- "Number of bits of a performance monitor minus `1`" (R98). -/
  | pmbits
  /-- "support for reading performance counter in user mode" (R99). -/
  | upm
  /-- Word 0xa: a first-level instruction or unified cache is there (R101). -/
  | l1IuPresent
  /-- That cache is unified (R102). -/
  | l1IuUnify
  /-- A first-level data cache is there (R103). -/
  | l1DPresent
  /-- A second-level instruction or unified cache is there (R104). -/
  | l2IuPresent
  /-- That cache is unified (R105). -/
  | l2IuUnify
  /-- That cache is private to each core (R106). -/
  | l2IuPrivate
  /-- That cache is inclusive of the lower level (R107). -/
  | l2IuInclusive
  /-- A second-level data cache is there (R108). -/
  | l2DPresent
  /-- That cache is private to each core (R109). -/
  | l2DPrivate
  /-- That cache is inclusive of the lower level (R110). -/
  | l2DInclusive
  /-- A third-level instruction or unified cache is there (R111, 90_conflicts C7). -/
  | l3IuPresent
  /-- That cache is unified (R112). -/
  | l3IuUnify
  /-- That cache is private to each core (R113). -/
  | l3IuPrivate
  /-- That cache is inclusive of the lower levels (R114). -/
  | l3IuInclusive
  /-- A third-level data cache is there (R115). -/
  | l3DPresent
  /-- That cache is private to each core; the source's name is "L3 F Inclusive" (R116, 90_conflicts C2). -/
  | l3DPrivate
  /-- That cache is inclusive of the lower levels (R117, 90_conflicts C8). -/
  | l3DInclusive
  /-- Word 0xb: ways minus 1 of the cache of `l1IuPresent` (R119). -/
  | l1IuWay
  /-- log2 of the sets of that cache (R120). -/
  | l1IuIndex
  /-- log2 of the line bytes of that cache (R121). -/
  | l1IuLine
  /-- Word 0xc: ways minus 1 of the cache of `l1DPresent` (R122). -/
  | l1DWay
  /-- log2 of the sets of that cache (R123). -/
  | l1DIndex
  /-- log2 of the line bytes of that cache (R124). -/
  | l1DLine
  /-- Word 0xd: ways minus 1 of the cache of `l2IuPresent` (R125). -/
  | l2IuWay
  /-- log2 of the sets of that cache (R126). -/
  | l2IuIndex
  /-- log2 of the line bytes of that cache (R127). -/
  | l2IuLine
  /-- Word 0xe: ways minus 1 of the cache of `l3IuPresent` (R128). -/
  | l3IuWay
  /-- log2 of the sets of that cache (R129). -/
  | l3IuIndex
  /-- log2 of the line bytes of that cache (R130). -/
  | l3IuLine
  deriving DecidableEq, Repr

end Sys2Proof
end

