-- ==== Sys2Proof/Machine/Operands.lean ====
section
/-! DEFINITION. What `CPUCFG` makes of its operands: the word number in `rj` and the value written to `rd`. -/

namespace Sys2Proof.Machine

/-- The number of the configuration word a register value selects: the unsigned value of all `GRLEN` bits
(`CPUCFG_INDEX` = `full`, 40_cpucfg R47; log 6). -/
def wordNumber (v : Word) : Nat := v.toNat

/-- A configuration word widened to `GRLEN` bits (40_cpucfg R48). -/
def widen (e : CpucfgExt) (w : CfgWord) : Word :=
  match e with
  | .sext => w.signExtend 64
  | .zext => w.zeroExtend 64

/-- The `CFG` of hardware that looks at the low `k` bits of `x[rj]` only and holds the words `g` (the other reading of
92 D7): one more total function of the whole register value, so that `wordNumber` shuts no such hardware out (log 6). -/
def cfgOfLowBits (k : Nat) (g : Nat → CfgWord) : Nat → CfgWord := fun n => g (n % 2 ^ k)

end Sys2Proof.Machine
end

