-- ==== Sys2Proof/Syntax.lean ====
section
/-! DEFINITION. The instruction syntax: one constructor per row of spec/opcode_table.json, which has one row. -/

namespace Sys2Proof

/-- The instructions the spec defines (40_cpucfg R45, 30_encoding R43). A register operand is its number; the numbers
0 to 31 are the registers there are (R10), which `Instr.wf` checks. -/
inductive Instr where
  /-- `CPUCFG rd, rj`: write the configuration word whose number is in `rj` to `rd` (R45). There is no immediate (R39). -/
  | cpucfg (rd rj : Nat)
  deriving DecidableEq, Repr

end Sys2Proof
end

