-- ==== Sys2Proof/WellFormed.lean ====
section
/-! DEFINITION. Which instruction terms are instructions: the checks the types of Syntax.lean do not make. -/

namespace Sys2Proof

/-- The number of general registers, `r0` to `r31` (10_state R10). -/
def numRegs : Nat := 32

/-- A register number of the machine: "each an unsigned register number 0 to 31" (30_encoding R38). -/
def regNumberOk (r : Nat) : Bool := decide (r < numRegs)

/-- The well-formed instructions: both operands of `CPUCFG` name a register (40_cpucfg R45, Operands). Every pair of
register numbers is allowed, `rd` = 0 and `rd` = `rj` among them (30_encoding R41). -/
def Instr.wf : Instr → Bool
  | .cpucfg rd rj => regNumberOk rd && regNumberOk rj

end Sys2Proof
end

