-- ==== Sys2Proof/Decode.lean ====
section
/-! DEFINITION. The decoder, total on any bytes, and the encoder (30_encoding R37 to R42). Bytes of a word are
little-endian (20_memory R27). -/

namespace Sys2Proof

/-- What a decoding answers: an instruction with the bytes after it, or one of two rejections, by name. -/
inductive Decoded where
  /-- The bytes begin with this instruction. -/
  | instr (i : Instr) (rest : List Byte)
  /-- The first word is no instruction the spec defines: `unspecified(word)` of R41. -/
  | unspecified (word : InsnWord)
  /-- There are fewer bytes than one instruction has (R37). -/
  | truncated
  deriving DecidableEq, Repr

/-- The match value of the opcode table's row for `CPUCFG` (R40). -/
def cpucfgMatch : InsnWord := 0x00006C00#32

/-- The mask of that row (R40). -/
def cpucfgMask : InsnWord := 0xFFFFFC00#32

/-- The field `rj`, `insn[9:5]` (R38). -/
def fieldRj (w : InsnWord) : Nat := (w.extractLsb 9 5).toNat

/-- The field `rd`, `insn[4:0]` (R38). -/
def fieldRd (w : InsnWord) : Nat := (w.extractLsb 4 0).toNat

/-- The instruction a 32-bit word encodes, none where the word decodes to `unspecified` (R40, R41). -/
def decodeWord (w : InsnWord) : Option Instr :=
  if w &&& cpucfgMask = cpucfgMatch then some (.cpucfg (fieldRd w) (fieldRj w)) else none

/-- The word of four bytes in address order: `word = byte(a) + 2^8 * byte(a+1) + ...` (20_memory R27). -/
def wordOfBytes (b0 b1 b2 b3 : Byte) : InsnWord := b3 ++ b2 ++ b1 ++ b0

/-- Byte `k` of a word in address order, `k` = 0 the least significant (R27). -/
def byteOfWord (w : InsnWord) (k : Nat) : Byte := (w >>> (8 * k)).setWidth 8

/-- The four bytes of a word in address order (R27). -/
def bytesOfWord (w : InsnWord) : List Byte := [byteOfWord w 0, byteOfWord w 1, byteOfWord w 2, byteOfWord w 3]

/-- Decoding of a byte sequence: one instruction is four bytes (R37, R42). -/
def decode : List Byte → Decoded
  | b0 :: b1 :: b2 :: b3 :: rest =>
    match decodeWord (wordOfBytes b0 b1 b2 b3) with
    | some i => .instr i rest
    | none => .unspecified (wordOfBytes b0 b1 b2 b3)
  | _ => .truncated

/-- The opcode of `CPUCFG`, `insn[31:10]` = 0x00001B (R40). -/
def cpucfgOpcode : BitVec 22 := 0b0000000000000000011011#22

/-- The word of a well-formed instruction: opcode, `rj`, `rd`, from bit 31 down (R38, R40). -/
def encode : Instr → InsnWord
  | .cpucfg rd rj => cpucfgOpcode ++ BitVec.ofNat 5 rj ++ BitVec.ofNat 5 rd

/-- The bytes of a well-formed instruction in address order (R27). -/
def encodeBytes (i : Instr) : List Byte := bytesOfWord (encode i)

/-- The word the opcode table numbers `w` and gives `nbits` bits: what lies above `nbits` is zero. -/
def tableWord (nbits w : Nat) : InsnWord := BitVec.ofNat 32 (w % 2 ^ nbits)

/-- What the decoder reads from an instruction whose bits the opcode table numbers `w`: the word laid out in memory
order, then decoded. -/
def decodeTableWord (nbits w : Nat) : Option Instr :=
  match decode (bytesOfWord (tableWord nbits w)) with
  | .instr i _ => some i
  | .unspecified _ => none
  | .truncated => none

end Sys2Proof
end

