-- ==== Sys2Proof/Machine/State.lean ====
section
/-! DEFINITION. The machine's state, as plain data, its reasons to stop, and the state right after reset. -/

namespace Sys2Proof.Machine

/-- Memory: the bytes placed, in one canonical form (addresses strictly rising and below 2^64, see `Memory.wf`). The only
memory of the spec is the program text `TEXT` (20_memory R26). An address that is not listed holds no value. -/
abbrev Memory := List Host.Cell

/-- The state of the core (10_state R24 lists what there is; INVENTORY.md, State). -/
structure State where
  /-- `x[0]` to `x[31]`, 64 bits each (R10). Slot 0 is never written and reads go through `readReg`, which answers 0 (R11). -/
  regs : Vector Word 32
  /-- The program counter, the byte address of the instruction being executed (R13). -/
  pc : Word
  /-- `TEXT`, as bytes (20_memory R26, R27; log 15). -/
  mem : Memory
  /-- `END` where the launch names one; none is the default, the address after the last instruction of `TEXT`
  (70_reset_and_hazards R148; log 16). -/
  endAt : Option Word
  deriving DecidableEq, Repr

/-- Why a step stops without a next state. Neither is an exception of the core, which has none (60_exceptions R133). -/
inductive Fault where
  /-- Raised by `step` when `pc` is neither in `TEXT` nor `END`: the core has no step, the run is stuck (20_memory R26,
  93 U10). Safe: the model stops where the hardware would fetch something. -/
  | fetchOutsideText
  /-- Raised by `step` when `pc` = `END`: the state is final and no step is taken from it (70_reset_and_hazards R148).
  Safe: the model stops where the hardware would go on. -/
  | runOver
  deriving DecidableEq, Repr

/-- Why the model gives no meaning. A refusal marks the run refused (30_encoding R41; log 17). -/
inductive Refusal where
  /-- Raised by an arm of `exec` that has no meaning yet. No arm is one. Safe. -/
  | notModelled (mnemonic : String)
  /-- Raised by `step` on a word that is not `CPUCFG`: `refuse(not_in_spec)` (30_encoding R41). Safe. -/
  | notInSpec (word : InsnWord)
  /-- Raised by the meaning of `CPUCFG` on a term whose operand is no register number, which no word decodes to
  (log 19). Safe. -/
  | noSuchRegister
  /-- Raised by `launch` when `ENTRY` is not a multiple of 4 (70_reset_and_hazards R146). Safe. -/
  | entryMisaligned
  /-- Raised by `launch` when `ENTRY` is outside `TEXT` (R146). Safe. -/
  | entryOutsideText
  /-- Raised by `launch` when `END` is in the domain of `TEXT`, which R148 excludes (log 20). Safe. -/
  | endInsideText
  /-- Raised by `launch` when the list given for `TEXT` is no finite map from multiples of 4 below 2^64, written with
  rising addresses (R26; log 20). Safe. -/
  | textMalformed
  deriving DecidableEq, Repr

/-- The state right after reset. The spec gives no reset value but `x[0]` = 0 (10_state R24): the other registers and `pc`
are 0, DESIGN CHOICE, unsafe (log 13, 14); nothing is placed in memory and no `END` is named (log 15, 16). -/
def State.reset : State where
  regs := Vector.replicate 32 0#64
  pc := 0#64
  mem := []
  endAt := none

end Sys2Proof.Machine
end

