-- ==== Sys2Proof/Machine/Ops.lean ====
section
/-! DEFINITION. The named operations over registers, the program counter and memory (00_scope R8). There is no operation
that takes an exception and none that returns from one: the spec has neither (60_exceptions R133, R136, R137). -/

namespace Sys2Proof.Machine

/-- `x[r]`: 0 for `r` = 0 in every state (10_state R11). -/
def readReg (s : State) (r : Nat) : Word :=
  if r = 0 then 0#64 else s.regs[r]?.getD 0#64

/-- `x[r] <- v`: a write to `r0` is discarded (10_state R11). -/
def writeReg (s : State) (r : Nat) (v : Word) : State :=
  if r = 0 then s else { s with regs := s.regs.setIfInBounds r v }

/-- `pc <- (pc + 4) mod 2^64` (10_state R14, 40_cpucfg R52). -/
def advancePc (s : State) : State := { s with pc := s.pc + 4#64 }

/-- The byte placed at an address, none where nothing was placed (log 15). -/
def Memory.readByte : Memory → Nat → Option Byte
  | [], _ => none
  | (k, b) :: rest, a => if a = k then some b else Memory.readByte rest a

/-- Place a byte at an address, keeping the addresses in rising order. No instruction does this (20_memory R26); the launch
does. -/
def Memory.writeByte : Memory → Nat → Byte → Memory
  | [], a, b => [(a, b)]
  | (k, c) :: rest, a, b =>
    if a < k then (a, b) :: (k, c) :: rest
    else if a = k then (a, b) :: rest
    else (k, c) :: Memory.writeByte rest a b

/-- Every listed address lies above `lo` and below 2^64, and the addresses rise strictly. -/
def Memory.risesFrom : Nat → Memory → Bool
  | _, [] => true
  | lo, (k, _) :: rest => decide (lo ≤ k) && decide (k < 2 ^ 64) && Memory.risesFrom (k + 1) rest

/-- The canonical form of memory: addresses strictly rising and below 2^64. An unlisted address holds no value, so no
entry can equal what an unlisted address reads as. -/
def Memory.wf (m : Memory) : Bool := Memory.risesFrom 0 m

/-- The four bytes from address `a`, as bytes in address order, none if one of them was not placed. -/
def Memory.readWordBytes (m : Memory) (a : Nat) : Option (List Byte) :=
  match Memory.readByte m a, Memory.readByte m (a + 1), Memory.readByte m (a + 2), Memory.readByte m (a + 3) with
  | some b0, some b1, some b2, some b3 => some [b0, b1, b2, b3]
  | _, _, _, _ => none

/-- The instruction word at `a`, assembled little-endian (20_memory R27). -/
def Memory.readWord (m : Memory) (a : Nat) : Option InsnWord :=
  match Memory.readWordBytes m a with
  | some [b0, b1, b2, b3] => some (wordOfBytes b0 b1 b2 b3)
  | _ => none

/-- Place an instruction word at `a`, little-endian (20_memory R27). -/
def Memory.writeWord (m : Memory) (a : Nat) (w : InsnWord) : Memory :=
  Memory.writeByte (Memory.writeByte (Memory.writeByte (Memory.writeByte m a (byteOfWord w 0))
    (a + 1) (byteOfWord w 1)) (a + 2) (byteOfWord w 2)) (a + 3) (byteOfWord w 3)

/-- `TEXT(a)`: a finite map whose domain holds multiples of 4 only (20_memory R26). -/
def textAt (m : Memory) (a : Nat) : Option InsnWord :=
  if a % 4 = 0 then Memory.readWord m a else none

/-- `Fetch(pc)`: `TEXT(pc)`, none outside the domain of `TEXT` (00_scope R8, 20_memory R26). -/
def fetch (s : State) : Option InsnWord := textAt s.mem s.pc.toNat

/-- The addresses of the instructions of `TEXT`. -/
def textAddrs (m : Memory) : List Nat := (m.map Prod.fst).filter fun a => (textAt m a).isSome

/-- The default of `END`: "the address 4 bytes after the last instruction of `TEXT`", modulo 2^64 (70 R148, 00_scope R8).
None while `TEXT` is empty. -/
def defaultEnd (m : Memory) : Option Word := (textAddrs m).max?.map fun a => BitVec.ofNat 64 (a + 4)

/-- The `END` a launch asks for: the one it names, else the default (70 R148). -/
def requestedEnd (endAt : Option Word) (m : Memory) : Option Word :=
  match endAt with
  | some a => some a
  | none => defaultEnd m

/-- `END` (70 R148): "`END` is not in the domain of `TEXT`", so an address of `TEXT` is none (log 16). -/
def endOf (s : State) : Option Word :=
  match requestedEnd s.endAt s.mem with
  | some a => if (textAt s.mem a.toNat).isSome then none else some a
  | none => none

/-- "A state with `pc` = `END` is final" (70 R148). -/
def isFinal (s : State) : Bool := decide (endOf s = some s.pc)

end Sys2Proof.Machine
end

