-- ==== Sys2Proof/Machine/Cpucfg.lean ====
section
/-! DEFINITION. The configuration family: `CPUCFG` (40_cpucfg R45 to R52). -/

namespace Sys2Proof.Machine

/-- `CPUCFG rd, rj` on a machine whose parameters are `c`, step by step as the pseudocode of R45. `x[rj]` is read before
`x[rd]` is written (R49); no flag, memory or other register changes and no exception is raised (R51); it is legal in every
privilege state, of which the model has none (R46). -/
def cpucfgWith (c : Config) (rd rj : Nat) (s : State) : Host.Outcome State Fault Refusal :=
  if (Instr.cpucfg rd rj).wf then
    let n := wordNumber (readReg s rj)
    let w := c.cfg n
    let v := widen c.ext w
    .next (advancePc (writeReg s rd v))
  else .refused .noSuchRegister

/-- `CPUCFG rd, rj` on the chip at hand (R45). -/
def execCpucfg (rd rj : Nat) (s : State) : Host.Outcome State Fault Refusal := cpucfgWith Config.chip rd rj s

end Sys2Proof.Machine
end

