-- ==== Sys2Proof/Machine/Fetch.lean ====
section
/-! DEFINITION. One step around an instruction's meaning, and the placing of an instruction where the next fetch is. -/

namespace Sys2Proof.Machine

/-- One step, given the meaning of instructions: a final state takes no step (70 R148); a fetch outside `TEXT` is stuck
before decode, a word that is no instruction is refused before any register is read (60 R135), and otherwise the decoded
instruction runs. -/
def stepBy (run : Instr → State → Host.Outcome State Fault Refusal) (s : State) :
    Host.Outcome State Fault Refusal :=
  if isFinal s then .fault .runOver
  else match fetch s with
    | none => .fault .fetchOutsideText
    | some w => match decodeWord w with
      | some i => run i s
      | none => .refused (.notInSpec w)

/-- `pc` with its two low bits cleared: the nearest address at or below it that an instruction can stand at (10 R13). -/
def alignDown (a : Word) : Word := a &&& ~~~ 3#64

/-- The state with an instruction word placed where the next step fetches it. A `pc` that no launch allows is first brought
to a multiple of 4 (log 26). -/
def placeWord (s : State) (w : InsnWord) : State :=
  { s with pc := alignDown s.pc, mem := Memory.writeWord s.mem (alignDown s.pc).toNat w }

end Sys2Proof.Machine
end

