-- ==== Sys2Proof/Machine/CfgFields.lean ====
section
/-! DEFINITION. The configuration fields: the place of each in its word, its example value, reading it, and composing a
word from its fields (00_scope R4 to R6; 41_cpucfg_words_core; 42_cpucfg_words_cache). -/

namespace Sys2Proof.Machine

/-- One row of the source's table. -/
structure CfgRow where
  /-- The number of the configuration word. -/
  word : Nat
  /-- The field's higher bit number, `AA` of `bitAA:BB` (R5). -/
  hi : Nat
  /-- The field's lower bit number, `BB` (R5). -/
  lo : Nat
  /-- The field's name, as the spec normalises it. -/
  name : String
  /-- The Possible Value, an example only (R3); none for "N/A". -/
  possible : Option Nat
  deriving DecidableEq, Repr

/-- The row of each field (R53, R55 to R66, R68 to R78, R80 to R90, R92, R93, R95 to R99, R101 to R117, R119 to R130). -/
def cfgRow : CfgField → CfgRow
  | .prid => ⟨0x0, 31, 0, "PRId", (some 0x14C010)⟩
  | .arch => ⟨0x1, 1, 0, "ARCH", (some 2)⟩
  | .pgmmu => ⟨0x1, 2, 2, "PGMMU", (some 1)⟩
  | .iocsr => ⟨0x1, 3, 3, "IOCSR", (some 1)⟩
  | .palen => ⟨0x1, 11, 4, "PALEN", (some 47)⟩
  | .valen => ⟨0x1, 19, 12, "VALEN", (some 47)⟩
  | .ual => ⟨0x1, 20, 20, "UAL", (some 1)⟩
  | .ri => ⟨0x1, 21, 21, "RI", (some 1)⟩
  | .ep => ⟨0x1, 22, 22, "EP", (some 1)⟩
  | .rplv => ⟨0x1, 23, 23, "RPLV", (some 1)⟩
  | .hp => ⟨0x1, 24, 24, "HP", (some 1)⟩
  | .iocsrBrd => ⟨0x1, 25, 25, "IOCSR_BRD", (some 1)⟩
  | .msgInt => ⟨0x1, 26, 26, "MSG_INT", (some 0)⟩
  | .fp => ⟨0x2, 0, 0, "FP", (some 1)⟩
  | .fpSp => ⟨0x2, 1, 1, "FP_SP", (some 1)⟩
  | .fpDp => ⟨0x2, 2, 2, "FP_DP", (some 1)⟩
  | .fpVer => ⟨0x2, 5, 3, "FP_ver", (some 1)⟩
  | .lsx => ⟨0x2, 6, 6, "LSX", (some 1)⟩
  | .lasx => ⟨0x2, 7, 7, "LASX", (some 1)⟩
  | .complex => ⟨0x2, 8, 8, "COMPLEX", (some 1)⟩
  | .llftp => ⟨0x2, 14, 14, "LLFTP", (some 1)⟩
  | .llftpVer => ⟨0x2, 17, 15, "LLFTP_ver", (some 1)⟩
  | .lspw => ⟨0x2, 21, 21, "LSPW", (some 1)⟩
  | .lam => ⟨0x2, 22, 22, "LAM", (some 1)⟩
  | .ccdma => ⟨0x3, 0, 0, "CCDMA", (some 1)⟩
  | .sfb => ⟨0x3, 1, 1, "SFB", (some 1)⟩
  | .llexc => ⟨0x3, 3, 3, "LLEXC", (some 1)⟩
  | .scdly => ⟨0x3, 4, 4, "SCDLY", (some 1)⟩
  | .lldbar => ⟨0x3, 5, 5, "LLDBAR", (some 1)⟩
  | .itlbt => ⟨0x3, 6, 6, "ITLBT", (some 1)⟩
  | .icachet => ⟨0x3, 7, 7, "ICACHET", (some 1)⟩
  | .spwLvl => ⟨0x3, 10, 8, "SPW_LVL", (some 4)⟩
  | .spwHpHf => ⟨0x3, 11, 11, "SPW_HP_HF", (some 1)⟩
  | .rva => ⟨0x3, 12, 12, "RVA", (some 1)⟩
  | .rvamaxM1 => ⟨0x3, 16, 13, "RVAMAX-1", (some 1)⟩
  | .ccMul => ⟨0x5, 15, 0, "CC_MUL", none⟩
  | .ccDiv => ⟨0x5, 31, 16, "CC_DIV", none⟩
  | .pmp => ⟨0x6, 0, 0, "PMP", (some 1)⟩
  | .pmver => ⟨0x6, 3, 1, "PMVER", (some 1)⟩
  | .pmnum => ⟨0x6, 7, 4, "PMNUM", (some 3)⟩
  | .pmbits => ⟨0x6, 13, 8, "PMBITS", (some 63)⟩
  | .upm => ⟨0x6, 14, 14, "UPM", (some 1)⟩
  | .l1IuPresent => ⟨0xa, 0, 0, "L1_IU_Present", (some 1)⟩
  | .l1IuUnify => ⟨0xa, 1, 1, "L1_IU_Unify", (some 0)⟩
  | .l1DPresent => ⟨0xa, 2, 2, "L1_D_Present", (some 1)⟩
  | .l2IuPresent => ⟨0xa, 3, 3, "L2_IU_Present", (some 1)⟩
  | .l2IuUnify => ⟨0xa, 4, 4, "L2_IU_Unify", (some 1)⟩
  | .l2IuPrivate => ⟨0xa, 5, 5, "L2_IU_Private", (some 1)⟩
  | .l2IuInclusive => ⟨0xa, 6, 6, "L2_IU_Inclusive", (some 0)⟩
  | .l2DPresent => ⟨0xa, 7, 7, "L2_D_Present", (some 0)⟩
  | .l2DPrivate => ⟨0xa, 8, 8, "L2_D_Private", (some 0)⟩
  | .l2DInclusive => ⟨0xa, 9, 9, "L2_D_Inclusive", (some 0)⟩
  | .l3IuPresent => ⟨0xa, 10, 10, "L3_IU_Present", (some 1)⟩
  | .l3IuUnify => ⟨0xa, 11, 11, "L3_IU_Unify", (some 1)⟩
  | .l3IuPrivate => ⟨0xa, 12, 12, "L3_IU_Private", (some 0)⟩
  | .l3IuInclusive => ⟨0xa, 13, 13, "L3_IU_Inclusive", (some 1)⟩
  | .l3DPresent => ⟨0xa, 14, 14, "L3_D_Present", (some 0)⟩
  | .l3DPrivate => ⟨0xa, 15, 15, "L3_D_Private", (some 0)⟩
  | .l3DInclusive => ⟨0xa, 16, 16, "L3_D_Inclusive", (some 0)⟩
  | .l1IuWay => ⟨0xb, 15, 0, "Way-1", (some 3)⟩
  | .l1IuIndex => ⟨0xb, 23, 16, "Index-log2", (some 8)⟩
  | .l1IuLine => ⟨0xb, 30, 24, "Linesize-log2", (some 6)⟩
  | .l1DWay => ⟨0xc, 15, 0, "Way-1", (some 3)⟩
  | .l1DIndex => ⟨0xc, 23, 16, "Index-log2", (some 8)⟩
  | .l1DLine => ⟨0xc, 30, 24, "Linesize-log2", (some 6)⟩
  | .l2IuWay => ⟨0xd, 15, 0, "Way-1", (some 15)⟩
  | .l2IuIndex => ⟨0xd, 23, 16, "Index-log2", (some 8)⟩
  | .l2IuLine => ⟨0xd, 30, 24, "Linesize-log2", (some 6)⟩
  | .l3IuWay => ⟨0xe, 15, 0, "Way-1", (some 15)⟩
  | .l3IuIndex => ⟨0xe, 23, 16, "Index-log2", (some 8)⟩
  | .l3IuLine => ⟨0xe, 30, 24, "Linesize-log2", (some 6)⟩

/-- The number of the word a field is in. -/
def fieldWord (f : CfgField) : Nat := (cfgRow f).word

/-- The lowest bit of a field. -/
def fieldLo (f : CfgField) : Nat := (cfgRow f).lo

/-- The highest bit of a field. -/
def fieldHi (f : CfgField) : Nat := (cfgRow f).hi

/-- A field is AA-BB+1 bits wide (R5). -/
def fieldWidth (f : CfgField) : Nat := fieldHi f - fieldLo f + 1

/-- `w[hi:lo]`, the bits `hi` down to `lo` as an unsigned integer (R5, R6, R8). -/
def bitsOf (w : CfgWord) (hi lo : Nat) : Nat := (w.extractLsb hi lo).toNat

/-- The value of a field in a given word. -/
def fieldOf (f : CfgField) (w : CfgWord) : Nat := bitsOf w (fieldHi f) (fieldLo f)

/-- The value of a field under a configuration, `CPUCFG.<n>.<NAME>` of R4. -/
def readField (cfg : Nat → CfgWord) (f : CfgField) : Nat := fieldOf f (cfg (fieldWord f))

/-- A field of the word a register holds after `CPUCFG`: of bits 31:0, which no choice of `CPUCFG_EXT` changes (40_cpucfg
R48; the feature test of 40_cpucfg, "How software is meant to use CPUCFG"). -/
def fieldInReg (f : CfgField) (v : Word) : Nat := fieldOf f (v.setWidth 32)

/-- The listed words (10_state R16). -/
def listedWords : List Nat := [0x0, 0x1, 0x2, 0x3, 0x5, 0x6, 0xa, 0xb, 0xc, 0xd, 0xe]

/-- The fields of each word, in the table's order; a word that is not listed has none (10_state R16, R19). -/
def fieldsOfWord : Nat → List CfgField
  | 0x0 => [.prid]
  | 0x1 => [.arch, .pgmmu, .iocsr, .palen, .valen, .ual, .ri, .ep, .rplv, .hp, .iocsrBrd, .msgInt]
  | 0x2 => [.fp, .fpSp, .fpDp, .fpVer, .lsx, .lasx, .complex, .llftp, .llftpVer, .lspw, .lam]
  | 0x3 => [.ccdma, .sfb, .llexc, .scdly, .lldbar, .itlbt, .icachet, .spwLvl, .spwHpHf, .rva, .rvamaxM1]
  | 0x5 => [.ccMul, .ccDiv]
  | 0x6 => [.pmp, .pmver, .pmnum, .pmbits, .upm]
  | 0xa => [.l1IuPresent, .l1IuUnify, .l1DPresent, .l2IuPresent, .l2IuUnify, .l2IuPrivate, .l2IuInclusive,
    .l2DPresent, .l2DPrivate, .l2DInclusive, .l3IuPresent, .l3IuUnify, .l3IuPrivate, .l3IuInclusive, .l3DPresent,
    .l3DPrivate, .l3DInclusive]
  | 0xb => [.l1IuWay, .l1IuIndex, .l1IuLine]
  | 0xc => [.l1DWay, .l1DIndex, .l1DLine]
  | 0xd => [.l2IuWay, .l2IuIndex, .l2IuLine]
  | 0xe => [.l3IuWay, .l3IuIndex, .l3IuLine]
  | _ => []

/-- The bits a field occupies, as a mask. -/
def fieldMask (f : CfgField) : CfgWord := BitVec.ofNat 32 ((2 ^ fieldWidth f - 1) * 2 ^ fieldLo f)

/-- The bits of a word that some field occupies. -/
def assignedMask (n : Nat) : CfgWord := (fieldsOfWord n).foldl (fun acc f => acc ||| fieldMask f) 0#32

/-- A word composed of its fields' values `v` and of `u` in the bits no field has (R54, R67, R79, R91, R94, R100, R118; the
unassigned bits are those of 10_state R18). -/
def composeWord (n : Nat) (v : CfgField → Nat) (u : CfgWord) : CfgWord :=
  (fieldsOfWord n).foldl (fun acc f => acc ||| (BitVec.ofNat 32 (v f * 2 ^ fieldLo f) &&& fieldMask f))
    (u &&& ~~~ assignedMask n)

/-- `CFG_EXAMPLE` (10_state R20): the Possible Value column, unassigned bits and unlisted words 0, word 0x5 the symbol `CC5`,
here the argument, of which nothing is assumed (R91). It is an example, not the chip (00_scope R3; log 9). -/
def cfgExample (cc5 : CfgWord) : Nat → CfgWord
  | 0x0 => 0x0014C010#32
  | 0x1 => 0x03F2F2FE#32
  | 0x2 => 0x0060C1CF#32
  | 0x3 => 0x00003CFB#32
  | 0x5 => cc5
  | 0x6 => 0x00007F33#32
  | 0xa => 0x00002C3D#32
  | 0xb => 0x06080003#32
  | 0xc => 0x06080003#32
  | 0xd => 0x0608000F#32
  | 0xe => 0x0608000F#32
  | _ => 0x00000000#32

/-- The parameters the test vectors use: `CFG_EXAMPLE` and `CPUCFG_EXT` = `sext` (95_test_vectors, Conventions). -/
def exampleConfig (cc5 : CfgWord) : Config where
  cfg := cfgExample cc5
  ext := .sext

end Sys2Proof.Machine
end

