-- ==== Sys2Proof/Machine/CfgViews.lean ====
section
/-! DEFINITION. What the configuration words say of the core: each word read field by field into plain terms, by the meaning
41_cpucfg_words_core and 42_cpucfg_words_cache give the fields. `CPUCFG` itself depends on none of this (90_conflicts,
92 D22): software does, by reading the word and judging by the value read (70_reset_and_hazards R147). -/

namespace Sys2Proof.Machine

/-- A one-bit field is 1. For a field whose 1 "indicates support", 0 is the absence of the indication (41, Template;
log 22). -/
def reports (cfg : Nat → CfgWord) (f : CfgField) : Bool := readField cfg f == 1

/-- The architecture variant (R55). -/
inductive Arch where
  /-- `2'b00`. -/
  | simplifiedLa32
  /-- `2'b01`. -/
  | la32
  /-- `2'b10`. -/
  | la64
  /-- `2'b11` "is reserved"; software infers no architecture from it (93 U1). -/
  | reservedVariant
  deriving DecidableEq, Repr

/-- The architecture variant a value of `ARCH` stands for (R55). -/
def archOf (v : Nat) : Arch :=
  if v = 0 then .simplifiedLa32 else if v = 1 then .la32 else if v = 2 then .la64 else .reservedVariant

/-- How the external interrupt is delivered (R66, 60_exceptions R134). -/
inductive InterruptMode where
  /-- The message interrupt mode. -/
  | messageMode
  /-- The level interrupt line mode. -/
  | levelLine
  deriving DecidableEq, Repr

/-- A version number: 1 is the initial one, no other is described (R71, R76, R96; 93 U6). -/
inductive Version where
  /-- The field is 1. For `FP_ver`: compatible with the IEEE 754-2008 standard (R71). -/
  | initialVersion
  /-- Any other value, whose meaning is unknown. -/
  | undescribed (v : Nat)
  deriving DecidableEq, Repr

/-- The version a field's value stands for. -/
def versionOf (v : Nat) : Version := if v = 1 then .initialVersion else .undescribed v

/-- `ARCH` (R55). -/
def arch (cfg : Nat → CfgWord) : Arch := archOf (readField cfg .arch)

/-- `PALEN`, the number of physical address bits: the field plus 1 (R58). -/
def physAddrBits (cfg : Nat → CfgWord) : Nat := readField cfg .palen + 1

/-- `VALEN`, the number of virtual address bits: the field plus 1 (R59). -/
def virtAddrBits (cfg : Nat → CfgWord) : Nat := readField cfg .valen + 1

/-- `MSG_INT`: 1 the message mode, "otherwise it is the level interrupt line mode" (R66). -/
def interruptMode (cfg : Nat → CfgWord) : InterruptMode := if reports cfg .msgInt then .messageMode else .levelLine

/-- The most directory levels of the page walk instruction: the field itself (R87). -/
def pageWalkLevels (cfg : Nat → CfgWord) : Nat := readField cfg .spwLvl

/-- `RVAMAX`, the greatest shortening of the virtual address range: the field plus 1, DEDUCED from the field's name, its
unit not stated (R90, 90_conflicts C10; log 25). -/
def rvaMax (cfg : Nat → CfgWord) : Nat := readField cfg .rvamaxM1 + 1

/-- The number of performance monitors: the field plus 1 (R97). -/
def perfMonitors (cfg : Nat → CfgWord) : Nat := readField cfg .pmnum + 1

/-- The bits of a performance monitor: the field plus 1 (R98). -/
def perfMonitorBits (cfg : Nat → CfgWord) : Nat := readField cfg .pmbits + 1

/-- What word 0x1 reports (R54 to R66). -/
structure BaseReport where
  arch : Arch
  pageMapping : Bool
  iocsrInsn : Bool
  physAddrBits : Nat
  virtAddrBits : Nat
  nonAligned : Bool
  readInhibit : Bool
  execProtect : Bool
  rplvAttr : Bool
  hugePages : Bool
  productString : Bool
  interruptMode : InterruptMode
  deriving DecidableEq, Repr

/-- The reading of word 0x1. -/
def baseReport (cfg : Nat → CfgWord) : BaseReport where
  arch := arch cfg
  pageMapping := reports cfg .pgmmu
  iocsrInsn := reports cfg .iocsr
  physAddrBits := physAddrBits cfg
  virtAddrBits := virtAddrBits cfg
  nonAligned := reports cfg .ual
  readInhibit := reports cfg .ri
  execProtect := reports cfg .ep
  rplvAttr := reports cfg .rplv
  hugePages := reports cfg .hp
  productString := reports cfg .iocsrBrd
  interruptMode := interruptMode cfg

/-- What word 0x2 reports (R67 to R78). -/
structure FeatureReport where
  floatBasic : Bool
  floatSingle : Bool
  floatDouble : Bool
  floatVersion : Version
  vector128 : Bool
  vector256 : Bool
  complexVector : Bool
  counterTimer : Bool
  counterTimerVersion : Version
  pageWalkInsn : Bool
  atomicAm : Bool
  deriving DecidableEq, Repr

/-- The reading of word 0x2. -/
def featureReport (cfg : Nat → CfgWord) : FeatureReport where
  floatBasic := reports cfg .fp
  floatSingle := reports cfg .fpSp
  floatDouble := reports cfg .fpDp
  floatVersion := versionOf (readField cfg .fpVer)
  vector128 := reports cfg .lsx
  vector256 := reports cfg .lasx
  complexVector := reports cfg .complex
  counterTimer := reports cfg .llftp
  counterTimerVersion := versionOf (readField cfg .llftpVer)
  pageWalkInsn := reports cfg .lspw
  atomicAm := reports cfg .lam

/-- What word 0x3 reports (R79 to R90). -/
structure CoherenceReport where
  coherentDma : Bool
  storeFillBuffer : Bool
  llFetchesExclusive : Bool
  delayAfterSc : Bool
  llWithDbar : Bool
  itlbConsistent : Bool
  icacheConsistent : Bool
  pageWalkLevels : Nat
  halfFillOnLargePage : Bool
  shortenableVirtRange : Bool
  rvaMax : Nat
  deriving DecidableEq, Repr

/-- The reading of word 0x3. -/
def coherenceReport (cfg : Nat → CfgWord) : CoherenceReport where
  coherentDma := reports cfg .ccdma
  storeFillBuffer := reports cfg .sfb
  llFetchesExclusive := reports cfg .llexc
  delayAfterSc := reports cfg .scdly
  llWithDbar := reports cfg .lldbar
  itlbConsistent := reports cfg .itlbt
  icacheConsistent := reports cfg .icachet
  pageWalkLevels := pageWalkLevels cfg
  halfFillOnLargePage := reports cfg .spwHpHf
  shortenableVirtRange := reports cfg .rva
  rvaMax := rvaMax cfg

/-- What word 0x5 reports: the two coefficients of the timer's clock, no formula being given (R91 to R93). -/
structure ClockReport where
  multiplier : Nat
  divider : Nat
  deriving DecidableEq, Repr

/-- The reading of word 0x5. -/
def clockReport (cfg : Nat → CfgWord) : ClockReport where
  multiplier := readField cfg .ccMul
  divider := readField cfg .ccDiv

/-- What word 0x6 reports (R94 to R99). -/
structure PerfReport where
  counters : Bool
  eventVersion : Version
  monitors : Nat
  monitorBits : Nat
  userModeReads : Bool
  deriving DecidableEq, Repr

/-- The reading of word 0x6. -/
def perfReport (cfg : Nat → CfgWord) : PerfReport where
  counters := reports cfg .pmp
  eventVersion := versionOf (readField cfg .pmver)
  monitors := perfMonitors cfg
  monitorBits := perfMonitorBits cfg
  userModeReads := reports cfg .upm

/-- The caches word 0xa names: at each level the one that serves instruction fetch, instruction or unified ("IU"), and a
separate data cache ("D"). -/
inductive CacheName where
  | l1Iu
  | l1D
  | l2Iu
  | l2D
  | l3Iu
  | l3D
  deriving DecidableEq, Repr

/-- The presence bit of a cache in word 0xa (R101, R103, R104, R108, R111, R115). -/
def presenceField : CacheName → CfgField
  | .l1Iu => .l1IuPresent
  | .l1D => .l1DPresent
  | .l2Iu => .l2IuPresent
  | .l2D => .l2DPresent
  | .l3Iu => .l3IuPresent
  | .l3D => .l3DPresent

/-- The unified bit of a cache, for the caches that have one (R102, R105, R112). -/
def unifyField : CacheName → Option CfgField
  | .l1Iu => some .l1IuUnify
  | .l2Iu => some .l2IuUnify
  | .l3Iu => some .l3IuUnify
  | .l1D => none
  | .l2D => none
  | .l3D => none

/-- The bit that says a cache is private to each core, for the caches that have one (R106, R109, R113, R116). -/
def perCoreField : CacheName → Option CfgField
  | .l2Iu => some .l2IuPrivate
  | .l2D => some .l2DPrivate
  | .l3Iu => some .l3IuPrivate
  | .l3D => some .l3DPrivate
  | .l1Iu => none
  | .l1D => none

/-- The bit that says a cache is inclusive of the lower levels, for the caches that have one (R107, R110, R114, R117). -/
def inclusiveField : CacheName → Option CfgField
  | .l2Iu => some .l2IuInclusive
  | .l2D => some .l2DInclusive
  | .l3Iu => some .l3IuInclusive
  | .l3D => some .l3DInclusive
  | .l1Iu => none
  | .l1D => none

/-- The number of the geometry word of a cache; "The source has no geometry word for an L2 data cache or an L3 data cache"
(R118). -/
def geometryWord : CacheName → Option Nat
  | .l1Iu => some 0xb
  | .l1D => some 0xc
  | .l2Iu => some 0xd
  | .l3Iu => some 0xe
  | .l2D => none
  | .l3D => none

/-- The shape of a cache (R118). -/
structure CacheGeometry where
  /-- The number of ways, `Way-1` plus 1. -/
  ways : Nat
  /-- The number of sets, 2 to the power `Index-log2`. -/
  sets : Nat
  /-- The bytes of a line, 2 to the power `Linesize-log2`. -/
  lineBytes : Nat
  deriving DecidableEq, Repr

/-- The shape a geometry word describes: `Way-1` in bits 15:0, `Index-log2` in 23:16, `Linesize-log2` in 30:24 (R118). -/
def geometryOf (g : CfgWord) : CacheGeometry where
  ways := bitsOf g 15 0 + 1
  sets := 2 ^ bitsOf g 23 16
  lineBytes := 2 ^ bitsOf g 30 24

/-- The capacity in bytes: ways times sets times bytes per line (R131). -/
def cacheBytes (g : CacheGeometry) : Nat := g.ways * g.sets * g.lineBytes

/-- What word 0xa says of a cache that is there. An entry is none where the word has no such bit for the cache. -/
structure CacheRelations where
  unified : Option Bool
  perCore : Option Bool
  inclusive : Option Bool
  deriving DecidableEq, Repr

/-- The relations of a cache; none where its presence bit is 0, since nothing is read into the dependent bits then
(R132; log 22). -/
def cacheRelations (cfg : Nat → CfgWord) (c : CacheName) : Option CacheRelations :=
  if reports cfg (presenceField c) then
    some ⟨(unifyField c).map (reports cfg), (perCoreField c).map (reports cfg), (inclusiveField c).map (reports cfg)⟩
  else none

/-- The geometry of a cache; none where its presence bit is 0 (R132) or it has no geometry word (R118). -/
def cacheGeometry (cfg : Nat → CfgWord) (c : CacheName) : Option CacheGeometry :=
  if reports cfg (presenceField c) then (geometryWord c).map fun n => geometryOf (cfg n) else none

end Sys2Proof.Machine
end

