-- ==== Sys2Proof/Machine/Launch.lean ====
section
/-! DEFINITION. The launch a run starts from (70_reset_and_hazards R146): what stands outside the machine and places the
program. -/

namespace Sys2Proof.Machine

/-- The launch premise (R146): `ENTRY`, `TEXT`, `END` where one is named, and the registers. `CFG` and `CPUCFG_EXT` are in
`Config`. -/
structure Launch where
  /-- `ENTRY` (00_scope R9). -/
  entry : Word
  /-- `TEXT`: instruction words by address (20_memory R26). -/
  text : List (Nat × InsnWord)
  /-- `END`, none for the default (R148). -/
  endAt : Option Word
  /-- The registers the precondition gives; the value given for `x[0]` does not count (R146: `x[0]` = 0). -/
  regs : Vector Word 32
  deriving DecidableEq, Repr

/-- The list writes a finite map from multiples of 4 below 2^64, in rising order, each address from `lo` on (R26). -/
def textOk : Nat → List (Nat × InsnWord) → Bool
  | _, [] => true
  | lo, (a, _) :: rest => decide (lo ≤ a) && decide (a % 4 = 0) && decide (a < 2 ^ 64) && textOk (a + 4) rest

/-- Memory holding the instruction words of a list. -/
def placeText : Memory → List (Nat × InsnWord) → Memory
  | m, [] => m
  | m, (a, w) :: rest => placeText (Memory.writeWord m a w) rest

/-- The launch state (R146). -/
def launchState (l : Launch) : State where
  regs := l.regs.setIfInBounds 0 0#64
  pc := l.entry
  mem := placeText [] l.text
  endAt := l.endAt

/-- The `END` the launch asks for is in the domain of `TEXT`, which R148 excludes. -/
def endClashes (l : Launch) : Bool :=
  match requestedEnd l.endAt (placeText [] l.text) with
  | some a => (textAt (placeText [] l.text) a.toNat).isSome
  | none => false

/-- Launching: "A launch with `ENTRY` not a multiple of 4 or outside `TEXT` is refused" (R146); a list that is no `TEXT`
and an `END` in the domain of `TEXT` are refused too (log 20). -/
def launch (l : Launch) : Host.Outcome State Fault Refusal :=
  if textOk 0 l.text = false then .refused .textMalformed
  else if l.entry.toNat % 4 ≠ 0 then .refused .entryMisaligned
  else if (fetch (launchState l)).isNone then .refused .entryOutsideText
  else if endClashes l then .refused .endInsideText
  else .next (launchState l)

end Sys2Proof.Machine
end

