-- ==== Sys2Proof/Safety.lean ====
section
/-! DEFINITION. What counts as a good state and a safe run. Every claim is under the premises of 92_eei_decisions: `CFG` is
fixed, no interrupt or exception is taken, `TEXT` is not modified by another agent. -/

namespace Sys2Proof.Machine

/-- How a state stands (70_reset_and_hazards R148, 95 V7). -/
inductive Standing where
  /-- `pc` = `END`. -/
  | final
  /-- `pc` is neither in `TEXT` nor `END`. -/
  | stuck
  /-- The word at `pc` is no instruction of the spec. -/
  | refusedNext
  /-- The word at `pc` is this instruction, which the next step executes. -/
  | runs (i : Instr)
  deriving DecidableEq, Repr

/-- The standing of a state. -/
def standing (s : State) : Standing :=
  if isFinal s then .final
  else match fetch s with
    | none => .stuck
    | some w => match decodeWord w with
      | some i => .runs i
      | none => .refusedNext

/-- What holds of every state from reset or a launch on: `pc` is a multiple of 4 (10_state R13), memory is in its canonical
form, and the storage behind `x[0]` holds 0 (R11). -/
def State.Inv (s : State) : Prop :=
  s.pc.toNat % 4 = 0 ∧ Memory.wf s.mem = true ∧ s.regs[0] = 0#64

/-- A safe state: final, or the machine has a next state. Stuck and refused are not safe. -/
def Safe (s : State) : Prop := standing s = .final ∨ ∃ t, step s = .next t

end Sys2Proof.Machine
end

