-- ==== Sys2Proof/Certificates/Slice0/Obligations.lean ====
section
/-! DEFINITION. The statements about the model. Where a statement rests on a decision of the spec or on a choice of the
model, its docstring names the decision (D<n>, 92_eei_decisions) or the log entry. -/

open Sys2Proof Sys2Proof.Machine

/-! ### The instruction -/

/-- R45, on every machine: operands, encoding, the pseudocode line by line for both values of `CPUCFG_EXT`, and the worked
example under `CFG_EXAMPLE`. The encoding, the register file and the widening are the spec's own decisions (D2, D4, D10). -/
def Obligations.CpucfgFollowsItsDefinition : Prop :=
  (∀ (c : Config) (rd rj : Nat) (s : State), rd < 32 → rj < 32 →
    ∃ t, cpucfgWith c rd rj s = .next t ∧
      (∀ r, readReg t r =
        if r = rd ∧ rd ≠ 0 then
          (match c.ext with
            | .sext => (c.cfg (readReg s rj).toNat).signExtend 64
            | .zext => (c.cfg (readReg s rj).toNat).zeroExtend 64)
        else readReg s r) ∧
      t.pc.toNat = (s.pc.toNat + 4) % 2 ^ 64 ∧
      (∀ a, Memory.readByte t.mem a = Memory.readByte s.mem a) ∧ t.endAt = s.endAt) ∧
  (∀ (rd rj : Nat) (s : State), exec (.cpucfg rd rj) s = cpucfgWith Config.chip rd rj s) ∧
  (∀ rd rj : Nat, rd < 32 → rj < 32 → (encode (.cpucfg rd rj)).toNat = 0x00006C00 + 32 * rj + rd) ∧
  (∀ (cc5 : CfgWord) (s : State), readReg s 4 = 1#64 → s.pc = 0x1000#64 →
    ∃ t, cpucfgWith (exampleConfig cc5) 5 4 s = .next t ∧
      readReg t 5 = 0x0000000003F2F2FE#64 ∧ readReg t 4 = 1#64 ∧ t.pc = 0x1004#64)

/-- `CPUCFG` on the chip at hand completes in every state. Bits 31:0 of `x[rd]` are the word `x[rj]` selects, bits 63:32 are
what `CPUCFG_EXT` makes of bit 31 (40_cpucfg, R48, decision D10; log 8), `pc` advances by 4. -/
def Obligations.CpucfgOnTheChipCompletes : Prop :=
  ∀ (rd rj : Nat) (s : State), rd < 32 → rj < 32 →
    ∃ t, exec (.cpucfg rd rj) s = .next t ∧ t.pc = s.pc + 4#64 ∧
      (rd ≠ 0 →
        (readReg t rd).setWidth 32 = Config.chip.cfg (readReg s rj).toNat ∧
        (readReg t rd).extractLsb 63 32 =
          (match Config.chip.ext with
            | .sext => if (Config.chip.cfg (readReg s rj).toNat).getLsbD 31 then 0xFFFFFFFF#32 else 0x00000000#32
            | .zext => 0x00000000#32))

/-- The frame of `CPUCFG` (40_cpucfg R51, decision D13): every general register but `rd` is unchanged, `r0` too, and so are
every byte of `TEXT`, the list that holds it and `END`. -/
def Obligations.CpucfgFrame : Prop :=
  ∀ (rd rj : Nat) (s t : State), exec (.cpucfg rd rj) s = .next t →
    (∀ r, r ≠ rd → readReg t r = readReg s r) ∧ readReg t 0 = 0#64 ∧
    (∀ a, Memory.readByte t.mem a = Memory.readByte s.mem a) ∧ t.mem = s.mem ∧
    t.endAt = s.endAt ∧ endOf t = endOf s

/-- `CPUCFG r0, rj` changes nothing but `pc` (40_cpucfg R49; that `r0` discards writes is decision D2). -/
def Obligations.CpucfgToR0OnlyAdvancesPc : Prop :=
  ∀ (rj : Nat) (s : State), rj < 32 → exec (.cpucfg 0 rj) s = .next { s with pc := s.pc + 4#64 }

/-- `rj` is read before `rd` is written, and the next `CPUCFG` reads what the one before it wrote, with no gap
(40_cpucfg R49, R52, 70_reset_and_hazards R149, decision D19). With `rd` = `rj` the word number is replaced by the word it
selects. -/
def Obligations.CpucfgResultFeedsTheNextCpucfg : Prop :=
  ∀ (c : Config) (rd rj rd2 : Nat) (s : State), rd < 32 → rj < 32 → rd2 < 32 → rd ≠ 0 → rd2 ≠ 0 →
    ∃ t u, cpucfgWith c rd rj s = .next t ∧ cpucfgWith c rd2 rd t = .next u ∧
      readReg t rd = widen c.ext (c.cfg (readReg s rj).toNat) ∧
      readReg u rd2 = widen c.ext (c.cfg (widen c.ext (c.cfg (readReg s rj).toNat)).toNat) ∧
      u.pc = s.pc + 8#64

/-- The two values of `CPUCFG_EXT`: bits 31:0 are the word under either, bits 63:32 are copies of bit 31 under `sext` and 0
under `zext`, and the two agree exactly on the words with bit 31 clear (40_cpucfg R48, decision D10). -/
def Obligations.WideningChoicesAgreeBelowBit31 : Prop :=
  ∀ w : CfgWord,
    (∀ e, (widen e w).setWidth 32 = w) ∧
    (∀ k, 32 ≤ k → k < 64 → (widen .sext w).getLsbD k = w.getLsbD 31 ∧ (widen .zext w).getLsbD k = false) ∧
    (widen .sext w = widen .zext w ↔ w.getLsbD 31 = false)

/-- Hardware that looks at the low `k` bits of `x[rj]` only returns what `full` returns wherever the register is below
2^k (40_cpucfg R47, decision D7; log 6). -/
def Obligations.NarrowIndexAgreesOnSmallNumbers : Prop :=
  ∀ (k : Nat) (c : Config) (rd rj : Nat) (s : State), rd < 32 → rj < 32 → (readReg s rj).toNat < 2 ^ k →
    ∃ t, cpucfgWith { c with cfg := cfgOfLowBits k c.cfg } rd rj s = .next t ∧ cpucfgWith c rd rj s = .next t

/-- Test vectors V2 and V3 under `CFG_EXAMPLE` and `sext`: the listed words but 0x5, word 0x5 as the symbol, and 0 for every
number that is not listed, those from 2^32 up among them (10_state R20, decisions D8, D11; log 9). -/
def Obligations.CpucfgReturnsTheExampleWords : Prop :=
  ∀ (cc5 : CfgWord) (rd rj : Nat) (s : State), rd < 32 → rj < 32 → rd ≠ 0 →
    ∃ t, cpucfgWith (exampleConfig cc5) rd rj s = .next t ∧
      (∀ p ∈ [(0x0#64, 0x14C010#64), (0x1#64, 0x3F2F2FE#64), (0x2#64, 0x60C1CF#64), (0x3#64, 0x3CFB#64),
          (0x6#64, 0x7F33#64), (0xa#64, 0x2C3D#64), (0xb#64, 0x6080003#64), (0xc#64, 0x6080003#64),
          (0xd#64, 0x608000F#64), (0xe#64, 0x608000F#64)],
        readReg s rj = p.1 → readReg t rd = p.2) ∧
      (readReg s rj = 0x5#64 → readReg t rd = cc5.signExtend 64) ∧
      ((readReg s rj).toNat ∉ listedWords → readReg t rd = 0#64)

/-- What `CPUCFG` writes depends on `x[rj]` and on no other state (70_reset_and_hazards R147, an inference the spec marks:
"CPUCFG depends on no state but x[rj] and CFG"). -/
def Obligations.CpucfgDependsOnlyOnRj : Prop :=
  ∀ (rd rj : Nat) (s s' : State), rd < 32 → rj < 32 → readReg s rj = readReg s' rj →
    ∃ t t', exec (.cpucfg rd rj) s = .next t ∧ exec (.cpucfg rd rj) s' = .next t' ∧ readReg t rd = readReg t' rd

/-- Every well-formed instruction has a next state from every state: no privilege, operand or state makes it trap, wait or
stop (40_cpucfg R46, R51, decisions D13, D14). -/
def Obligations.EveryInstructionIsLegalEverywhere : Prop :=
  ∀ (i : Instr) (s : State), i.wf = true → ∃ t, exec i s = .next t

/-- A term whose operand is no register number is refused by name. The model's choice, log 19: no word decodes to one. -/
def Obligations.NoSuchRegisterIsRefused : Prop :=
  ∀ (rd rj : Nat) (s : State), (32 ≤ rd ∨ 32 ≤ rj) → exec (.cpucfg rd rj) s = .refused .noSuchRegister

/-- Software's feature test: `CPUCFG` of a field's word leaves that field in `x[rd]` at the place the tables give
(40_cpucfg, "How software is meant to use CPUCFG"), whatever the chip's configuration and widening are. -/
def Obligations.FeatureTestReadsTheField : Prop :=
  ∀ (f : CfgField) (rd rj : Nat) (s : State), rd < 32 → rj < 32 → rd ≠ 0 →
    readReg s rj = BitVec.ofNat 64 (fieldWord f) →
    ∃ t, exec (.cpucfg rd rj) s = .next t ∧ fieldInReg f (readReg t rd) = readField Config.chip.cfg f

/-! ### Encoding -/

/-- Decoding the bytes of a well-formed instruction, whatever follows them, gives the instruction and what follows. -/
def Obligations.DecodeOfEncodeIsTheInstruction : Prop :=
  ∀ (i : Instr) (rest : List Byte), i.wf = true → decode (encodeBytes i ++ rest) = .instr i rest

/-- A word that decodes is the encoding of what it decodes to, which is well-formed: each instruction has one word. -/
def Obligations.EncodeOfDecodeIsTheWord : Prop :=
  ∀ (w : InsnWord) (i : Instr), decodeWord w = some i → i.wf = true ∧ encode i = w

/-- "The range of accepted words is exactly 0x00006C00 to 0x00006FFF inclusive" (95 V1), and the operands are the fields of
30_encoding R38 (decision D4; log 3): all words of the range are `CPUCFG`, every other word is none. -/
def Obligations.AcceptedWordsAreOneRange : Prop :=
  ∀ w : InsnWord,
    (∀ rd rj, decodeWord w = some (.cpucfg rd rj) ↔
      rd < 32 ∧ rj < 32 ∧ w.toNat = 0x6C00 + 32 * rj + rd) ∧
    (decodeWord w = none ↔ w.toNat < 0x6C00 ∨ 0x6FFF < w.toNat)

/-- Words written out from 30_encoding R40 and 95 V1, decoded and rejected. -/
def Obligations.KnownWordsDecode : Prop :=
  decodeWord 0b00000000000000000110110010000101#32 = some (.cpucfg 5 4) ∧
  decodeWord 0b00000000000000000110111111100000#32 = some (.cpucfg 0 31) ∧
  decodeWord 0b00000000000000000110110000011111#32 = some (.cpucfg 31 0) ∧
  decode [0x85#8, 0x6D#8, 0x00#8, 0x00#8] = .instr (.cpucfg 5 12) [] ∧
  decode [0x85#8, 0x70#8, 0x00#8, 0x00#8] = .unspecified 0x00007085#32 ∧
  decode [0x85#8, 0x6D#8, 0x00#8] = .truncated

/-! ### The step -/

/-- When the four bytes at an aligned `pc` decode to an instruction, the step is its execution, with nothing around it. -/
def Obligations.StepRunsTheDecodedInstruction : Prop :=
  ∀ (s : State) (bs : List Byte) (i : Instr), s.pc.toNat % 4 = 0 →
    Memory.readWordBytes s.mem s.pc.toNat = some bs → decode bs = .instr i [] → step s = exec i s

/-- What a step answers, in every state (95 V7; 20_memory R26, 30_encoding R41, 70_reset_and_hazards R148, decisions D12,
D16, D17; log 16): a next state on a `CPUCFG` word in `TEXT`, refused on another word in `TEXT`, final at `END`, stuck
elsewhere. -/
def Obligations.StepOutcomeByWhereThePcIs : Prop :=
  ∀ s : State,
    (∀ w, textAt s.mem s.pc.toNat = some w → w &&& 0xFFFFFC00#32 = 0x00006C00#32 → ∃ t, step s = .next t) ∧
    (∀ w, textAt s.mem s.pc.toNat = some w → w &&& 0xFFFFFC00#32 ≠ 0x00006C00#32 →
      step s = .refused (.notInSpec w)) ∧
    (textAt s.mem s.pc.toNat = none → endOf s = some s.pc → step s = .fault .runOver) ∧
    (textAt s.mem s.pc.toNat = none → endOf s ≠ some s.pc → step s = .fault .fetchOutsideText)

/-- What no step changes, and all it can change: `TEXT` and `END` stay, `pc` advances by 4 modulo 2^64, and at most one
general register differs (10_state R14, 20_memory R26, 40_cpucfg R51; decisions D5, D13, D16). -/
def Obligations.StepChangesOneRegisterAndThePc : Prop :=
  ∀ s t : State, step s = .next t →
    t.mem = s.mem ∧ t.endAt = s.endAt ∧ endOf t = endOf s ∧
    t.pc.toNat = (s.pc.toNat + 4) % 2 ^ 64 ∧
    ∃ rd, ∀ r, r ≠ rd → readReg t r = readReg s r

/-- Every step keeps the invariant: `pc` a multiple of 4 (10_state R13), memory in canonical form, nothing behind `r0`
(10_state R11). -/
def Obligations.StepKeepsTheInvariant : Prop :=
  ∀ s t : State, s.Inv → step s = .next t → t.Inv

/-- The state after reset meets the invariant, every general register reads 0 in it and its `pc` is 0. The spec gives
`x[0]` = 0 alone (10_state R24): the other zeros are the model's choice, log 13 and 14. -/
def Obligations.ResetMeetsTheInvariant : Prop :=
  State.reset.Inv ∧ (∀ r, readReg State.reset r = 0#64) ∧ State.reset.pc = 0#64 ∧
    (∀ a, Memory.readByte State.reset.mem a = none) ∧ endOf State.reset = none

/-- The instruction `withFetchWord` places is the one the next step runs, from every state, and the registers, the `END` a
launch named (or that it named none), and an aligned `pc` stay (the model's own operation, log 21 and 26). -/
def Obligations.PlacedInstructionRunsNext : Prop :=
  ∀ (s : State) (w : Nat) (i : Instr), decodeTableWord 32 w = some i →
    step (s.withFetchWord 32 w) = exec i (s.withFetchWord 32 w) ∧
    (∀ r, readReg (s.withFetchWord 32 w) r = readReg s r) ∧
    (s.withFetchWord 32 w).endAt = s.endAt ∧
    (s.pc.toNat % 4 = 0 → (s.withFetchWord 32 w).pc = s.pc)

/-- The standing of a state tells what its step does, and the safe states are those that are final or run an instruction
(70_reset_and_hazards R148, decision D17; log 16 and 17). -/
def Obligations.StandingTellsTheStep : Prop :=
  ∀ s : State,
    (standing s = .final → step s = .fault .runOver) ∧
    (standing s = .stuck → step s = .fault .fetchOutsideText) ∧
    (standing s = .refusedNext → ∃ w, fetch s = some w ∧ step s = .refused (.notInSpec w)) ∧
    (∀ i, standing s = .runs i → i.wf = true ∧ ∃ t, step s = .next t ∧ exec i s = .next t) ∧
    (Safe s ↔ standing s = .final ∨ ∃ i, standing s = .runs i)

/-- From any state, k consecutive `CPUCFG` words of `TEXT` at `pc` are executed in k steps, one after the other with no gap,
`TEXT` unchanged; if `END` is the address after them the state reached is final (70_reset_and_hazards R148, R149, 10_state
R14; decisions D5, D17, D19; the stop's name `runOver` is the model's, log 16). -/
def Obligations.StraightTextRunsToItsEnd : Prop :=
  ∀ (k : Nat) (s : State),
    (∀ j, j < k → ∃ w, textAt s.mem ((s.pc.toNat + 4 * j) % 2 ^ 64) = some w ∧
      w &&& 0xFFFFFC00#32 = 0x00006C00#32) →
    ∃ t : State, Host.Core.run Sys2Proof.core k s = .next t ∧ t.pc.toNat = (s.pc.toNat + 4 * k) % 2 ^ 64 ∧
      t.mem = s.mem ∧ t.endAt = s.endAt ∧ (endOf s = some t.pc → isFinal t = true ∧ step t = .fault .runOver)

/-! ### The launch -/

/-- The launch state (70_reset_and_hazards R146, decision D15): `pc` = `ENTRY`, `x[0]` = 0, the other registers as the
premise gives them, the invariant met. -/
def Obligations.LaunchStateIsThePremise : Prop :=
  ∀ (l : Launch) (s : State), launch l = .next s →
    s.pc = l.entry ∧ readReg s 0 = 0#64 ∧ (∀ r (h : r < 32), r ≠ 0 → readReg s r = l.regs[r]) ∧ s.Inv

/-- The memory of a launch state is `TEXT`: at every address the word the premise lists there, none elsewhere
(20_memory R26, R27, decisions D4, D16; log 15). -/
def Obligations.LaunchPlacesTheText : Prop :=
  ∀ (l : Launch) (s : State), launch l = .next s → ∀ a, textAt s.mem a = l.text.lookup a

/-- `END` after a launch (70_reset_and_hazards R148, decision D17): the address named, else the one 4 bytes after the last
instruction of `TEXT`, modulo 2^64. -/
def Obligations.LaunchFixesTheEnd : Prop :=
  ∀ (l : Launch) (s : State), launch l = .next s →
    (∀ e, l.endAt = some e → endOf s = some e) ∧
    (∀ p, l.endAt = none → l.text.getLast? = some p → endOf s = some (BitVec.ofNat 64 (p.1 + 4)))

/-- When a launch is refused (95 V7, 70_reset_and_hazards R146, decision D15), and that it is accepted otherwise; the
conditions on the list and on `END` are the model's, log 20. The default `END` falls inside `TEXT` only where it wraps past
the top of the address space. -/
def Obligations.LaunchIsRefusedOrAccepted : Prop :=
  ∀ l : Launch,
    (textOk 0 l.text = false → launch l = .refused .textMalformed) ∧
    (textOk 0 l.text = true → l.entry.toNat % 4 ≠ 0 → launch l = .refused .entryMisaligned) ∧
    (textOk 0 l.text = true → l.entry.toNat % 4 = 0 → l.text.lookup l.entry.toNat = none →
      launch l = .refused .entryOutsideText) ∧
    (∀ w e x, textOk 0 l.text = true → l.entry.toNat % 4 = 0 → l.text.lookup l.entry.toNat = some w →
      l.endAt = some e → l.text.lookup e.toNat = some x → launch l = .refused .endInsideText) ∧
    (∀ w e, textOk 0 l.text = true → l.entry.toNat % 4 = 0 → l.text.lookup l.entry.toNat = some w →
      l.endAt = some e → l.text.lookup e.toNat = none → ∃ s, launch l = .next s) ∧
    (∀ w p, textOk 0 l.text = true → l.entry.toNat % 4 = 0 → l.text.lookup l.entry.toNat = some w →
      l.endAt = none → l.text.getLast? = some p → l.text.lookup ((p.1 + 4) % 2 ^ 64) = none → ∃ s, launch l = .next s) ∧
    (∀ w p x, textOk 0 l.text = true → l.entry.toNat % 4 = 0 → l.text.lookup l.entry.toNat = some w →
      l.endAt = none → l.text.getLast? = some p → l.text.lookup ((p.1 + 4) % 2 ^ 64) = some x →
      launch l = .refused .endInsideText)

/-! ### The configuration words -/

/-- R16: the listed words are exactly eleven; every field is in one of them, and 0xa is 10. -/
def Obligations.ListedWordsAreEleven : Prop :=
  listedWords.length = 11 ∧ listedWords.Nodup ∧
  (∀ n, n ∈ listedWords ↔ n ≤ 3 ∨ n = 5 ∨ n = 6 ∨ (10 ≤ n ∧ n ≤ 14)) ∧
  (∀ f : CfgField, fieldWord f ∈ listedWords ∧ f ∈ fieldsOfWord (fieldWord f)) ∧
  (∀ n, n ∉ listedWords → fieldsOfWord n = []) ∧ (0xa : Nat) = 10

/-- A word is composed of its fields and its unassigned bits: reading every field and putting the values back gives the
word (41 and 42, the composition rules, inferences the spec marks). -/
def Obligations.WordsAreComposedOfTheirFields : Prop :=
  ∀ n ∈ listedWords, ∀ w : CfgWord, composeWord n (fun f => fieldOf f w) w = w

/-- Fields do not overlap: a word composed of any values of its fields reads each of them back, and keeps the unassigned
bits. -/
def Obligations.ComposedFieldsReadBack : Prop :=
  ∀ (f : CfgField) (v : CfgField → Nat) (u : CfgWord), (∀ g, v g < 2 ^ fieldWidth g) →
    fieldOf f (composeWord (fieldWord f) v u) = v f ∧
    composeWord (fieldWord f) v u &&& ~~~ assignedMask (fieldWord f) = u &&& ~~~ assignedMask (fieldWord f)

/-- The unassigned bits of the listed words (10_state R18, decision D9), and that they are 0 in `CFG_EXAMPLE`. -/
def Obligations.UnassignedBitsOfListedWords : Prop :=
  assignedMask 0x0 = 0xFFFFFFFF#32 ∧ assignedMask 0x1 = 0x07FFFFFF#32 ∧ assignedMask 0x2 = 0x0063C1FF#32 ∧
  assignedMask 0x3 = 0x0001FFFB#32 ∧ assignedMask 0x5 = 0xFFFFFFFF#32 ∧ assignedMask 0x6 = 0x00007FFF#32 ∧
  assignedMask 0xa = 0x0001FFFF#32 ∧ (∀ n, 0xb ≤ n → n ≤ 0xe → assignedMask n = 0x7FFFFFFF#32) ∧
  (∀ (cc5 : CfgWord) (n : Nat), n ≠ 5 → cfgExample cc5 n &&& ~~~ assignedMask n = 0#32)

/-- Test vector V4: every field with a stated possible value reads that value from `CFG_EXAMPLE`, and the value fits the
field (10_state R20, decision D11). -/
def Obligations.ExampleFieldsArePossibleValues : Prop :=
  ∀ (f : CfgField) (cc5 : CfgWord) (v : Nat), (cfgRow f).possible = some v →
    readField (cfgExample cc5) f = v ∧ v < 2 ^ fieldWidth f

/-- R53: word 0x0 is the processor identity, whole. -/
def Obligations.ProcessorIdentityIsWordZero : Prop :=
  (∀ cfg, readField cfg .prid = (cfg 0x0).toNat) ∧ assignedMask 0x0 = 0xFFFFFFFF#32 ∧
  (cfgRow .prid).possible = some 0x0014C010 ∧ (∀ cc5, readField (cfgExample cc5) .prid = 1359888)

/-- R55: the four values of `ARCH`, word 0x1 bits 1:0. -/
def Obligations.ArchitectureVariantOfWordOne : Prop :=
  (∀ cfg : Nat → CfgWord,
    arch cfg = (match (cfg 0x1).toNat % 4 with
      | 0 => .simplifiedLa32
      | 1 => .la32
      | 2 => .la64
      | _ => .reservedVariant) ∧
    (arch cfg = .la64 → (cfg 0x1).getLsbD 0 = false)) ∧
  (cfgRow .arch).possible = some 2 ∧ archOf 2 = .la64

/-- R58 and R59: the address widths are the fields plus 1, from 1 to 256. -/
def Obligations.AddressWidthsAreFieldPlusOne : Prop :=
  (∀ cfg : Nat → CfgWord,
    physAddrBits cfg = (cfg 0x1).toNat / 2 ^ 4 % 2 ^ 8 + 1 ∧ 1 ≤ physAddrBits cfg ∧ physAddrBits cfg ≤ 256 ∧
    virtAddrBits cfg = (cfg 0x1).toNat / 2 ^ 12 % 2 ^ 8 + 1 ∧ 1 ≤ virtAddrBits cfg ∧ virtAddrBits cfg ≤ 256) ∧
  (∀ n, 1 ≤ n → n ≤ 256 → (∃ cfg, physAddrBits cfg = n) ∧ ∃ cfg, virtAddrBits cfg = n) ∧
  (cfgRow .palen).possible = some 47 ∧ (cfgRow .valen).possible = some 47 ∧
  (∀ cc5, physAddrBits (cfgExample cc5) = 48 ∧ virtAddrBits (cfgExample cc5) = 48)

/-- R66: `MSG_INT`, word 0x1 bit 26, both values. -/
def Obligations.ExternalInterruptModeOfBit26 : Prop :=
  (∀ cfg : Nat → CfgWord,
    interruptMode cfg = if (cfg 0x1).getLsbD 26 then .messageMode else .levelLine) ∧
  (cfgRow .msgInt).possible = some 0 ∧ (∀ cc5, interruptMode (cfgExample cc5) = .levelLine)

/-- R56, R57, R60 to R65: the one-bit reports of word 0x1, with the possible value 1 of each. -/
def Obligations.BaseFeatureBitsOfWordOne : Prop :=
  (∀ cfg : Nat → CfgWord,
    (baseReport cfg).pageMapping = (cfg 0x1).getLsbD 2 ∧ (baseReport cfg).iocsrInsn = (cfg 0x1).getLsbD 3 ∧
    (baseReport cfg).nonAligned = (cfg 0x1).getLsbD 20 ∧ (baseReport cfg).readInhibit = (cfg 0x1).getLsbD 21 ∧
    (baseReport cfg).execProtect = (cfg 0x1).getLsbD 22 ∧ (baseReport cfg).rplvAttr = (cfg 0x1).getLsbD 23 ∧
    (baseReport cfg).hugePages = (cfg 0x1).getLsbD 24 ∧ (baseReport cfg).productString = (cfg 0x1).getLsbD 25) ∧
  (∀ f ∈ [CfgField.pgmmu, .iocsr, .ual, .ri, .ep, .rplv, .hp, .iocsrBrd],
    fieldWidth f = 1 ∧ (cfgRow f).possible = some 1)

/-- R68 to R70, R72 to R75, R77, R78: the one-bit reports of word 0x2, with the possible value 1 of each. -/
def Obligations.InstructionFeatureBitsOfWordTwo : Prop :=
  (∀ cfg : Nat → CfgWord,
    (featureReport cfg).floatBasic = (cfg 0x2).getLsbD 0 ∧ (featureReport cfg).floatSingle = (cfg 0x2).getLsbD 1 ∧
    (featureReport cfg).floatDouble = (cfg 0x2).getLsbD 2 ∧ (featureReport cfg).vector128 = (cfg 0x2).getLsbD 6 ∧
    (featureReport cfg).vector256 = (cfg 0x2).getLsbD 7 ∧ (featureReport cfg).complexVector = (cfg 0x2).getLsbD 8 ∧
    (featureReport cfg).counterTimer = (cfg 0x2).getLsbD 14 ∧
    (featureReport cfg).pageWalkInsn = (cfg 0x2).getLsbD 21 ∧ (featureReport cfg).atomicAm = (cfg 0x2).getLsbD 22) ∧
  (∀ f ∈ [CfgField.fp, .fpSp, .fpDp, .lsx, .lasx, .complex, .llftp, .lspw, .lam],
    fieldWidth f = 1 ∧ (cfgRow f).possible = some 1)

/-- R71, R76, R96: the version fields; 1 is the initial version and no other value is described. -/
def Obligations.VersionFieldsDescribeOnlyOne : Prop :=
  (∀ cfg : Nat → CfgWord,
    (featureReport cfg).floatVersion = (if (cfg 0x2).toNat / 2 ^ 3 % 8 = 1 then .initialVersion
      else .undescribed ((cfg 0x2).toNat / 2 ^ 3 % 8)) ∧
    (featureReport cfg).counterTimerVersion = (if (cfg 0x2).toNat / 2 ^ 15 % 8 = 1 then .initialVersion
      else .undescribed ((cfg 0x2).toNat / 2 ^ 15 % 8)) ∧
    (perfReport cfg).eventVersion = (if (cfg 0x6).toNat / 2 ^ 1 % 8 = 1 then .initialVersion
      else .undescribed ((cfg 0x6).toNat / 2 ^ 1 % 8))) ∧
  (∀ f ∈ [CfgField.fpVer, .llftpVer, .pmver], fieldWidth f = 3 ∧ (cfgRow f).possible = some 1)

/-- R80 to R86, R88, R89: the one-bit reports of word 0x3, with the possible value 1 of each. -/
def Obligations.CoherenceBitsOfWordThree : Prop :=
  (∀ cfg : Nat → CfgWord,
    (coherenceReport cfg).coherentDma = (cfg 0x3).getLsbD 0 ∧
    (coherenceReport cfg).storeFillBuffer = (cfg 0x3).getLsbD 1 ∧
    (coherenceReport cfg).llFetchesExclusive = (cfg 0x3).getLsbD 3 ∧
    (coherenceReport cfg).delayAfterSc = (cfg 0x3).getLsbD 4 ∧
    (coherenceReport cfg).llWithDbar = (cfg 0x3).getLsbD 5 ∧
    (coherenceReport cfg).itlbConsistent = (cfg 0x3).getLsbD 6 ∧
    (coherenceReport cfg).icacheConsistent = (cfg 0x3).getLsbD 7 ∧
    (coherenceReport cfg).halfFillOnLargePage = (cfg 0x3).getLsbD 11 ∧
    (coherenceReport cfg).shortenableVirtRange = (cfg 0x3).getLsbD 12) ∧
  (∀ f ∈ [CfgField.ccdma, .sfb, .llexc, .scdly, .lldbar, .itlbt, .icachet, .spwHpHf, .rva],
    fieldWidth f = 1 ∧ (cfgRow f).possible = some 1)

/-- R87: `SPW_LVL`, word 0x3 bits 10:8, is the number of levels itself. -/
def Obligations.PageWalkLevelsIsTheFieldItself : Prop :=
  (∀ cfg : Nat → CfgWord, pageWalkLevels cfg = (cfg 0x3).toNat / 2 ^ 8 % 2 ^ 3 ∧
    (coherenceReport cfg).pageWalkLevels = pageWalkLevels cfg) ∧
  fieldWidth .spwLvl = 3 ∧ (cfgRow .spwLvl).possible = some 4 ∧ (∀ cc5, pageWalkLevels (cfgExample cc5) = 4)

/-- `RVAMAX`, word 0x3 bits 16:13, is the field plus 1: an inference the spec marks (41 R90, 90_conflicts C10; log 25). -/
def Obligations.RvaMaxIsFieldPlusOne : Prop :=
  (∀ cfg : Nat → CfgWord, rvaMax cfg = (cfg 0x3).toNat / 2 ^ 13 % 2 ^ 4 + 1) ∧
  fieldWidth .rvamaxM1 = 4 ∧ (cfgRow .rvamaxM1).possible = some 1 ∧ (∀ cc5, rvaMax (cfgExample cc5) = 2)

/-- R92 and R93: `CC_MUL` is word 0x5 bits 15:0, `CC_DIV` bits 31:16, with no possible value, and the two are the word. -/
def Obligations.ClockCoefficientsOfWordFive : Prop :=
  (∀ cfg : Nat → CfgWord,
    (clockReport cfg).multiplier = (cfg 0x5).toNat % 2 ^ 16 ∧ (clockReport cfg).divider = (cfg 0x5).toNat / 2 ^ 16 ∧
    (clockReport cfg).divider * 2 ^ 16 + (clockReport cfg).multiplier = (cfg 0x5).toNat) ∧
  fieldWidth .ccMul = 16 ∧ fieldWidth .ccDiv = 16 ∧
  (cfgRow .ccMul).possible = none ∧ (cfgRow .ccDiv).possible = none

/-- R95, R97 to R99: the performance monitors of word 0x6, number and width being the fields plus 1. -/
def Obligations.PerformanceMonitorsOfWordSix : Prop :=
  (∀ cfg : Nat → CfgWord,
    (perfReport cfg).counters = (cfg 0x6).getLsbD 0 ∧ (perfReport cfg).userModeReads = (cfg 0x6).getLsbD 14 ∧
    (perfReport cfg).monitors = (cfg 0x6).toNat / 2 ^ 4 % 2 ^ 4 + 1 ∧
    1 ≤ (perfReport cfg).monitors ∧ (perfReport cfg).monitors ≤ 16 ∧
    (perfReport cfg).monitorBits = (cfg 0x6).toNat / 2 ^ 8 % 2 ^ 6 + 1 ∧
    1 ≤ (perfReport cfg).monitorBits ∧ (perfReport cfg).monitorBits ≤ 64) ∧
  (∀ n, 1 ≤ n → n ≤ 16 → ∃ cfg, perfMonitors cfg = n) ∧ (∀ n, 1 ≤ n → n ≤ 64 → ∃ cfg, perfMonitorBits cfg = n) ∧
  (cfgRow .pmp).possible = some 1 ∧ (cfgRow .upm).possible = some 1 ∧
  (cfgRow .pmnum).possible = some 3 ∧ (cfgRow .pmbits).possible = some 63 ∧
  (∀ cc5, perfMonitors (cfgExample cc5) = 4 ∧ perfMonitorBits (cfgExample cc5) = 64)

/-- R101 to R110: the bits of word 0xa on the first- and second-level caches, with their possible values. -/
def Obligations.FirstAndSecondLevelCacheBits : Prop :=
  (∀ cfg : Nat → CfgWord,
    reports cfg (presenceField .l1Iu) = (cfg 0xa).getLsbD 0 ∧ (unifyField .l1Iu).map (reports cfg) = some ((cfg 0xa).getLsbD 1) ∧
    reports cfg (presenceField .l1D) = (cfg 0xa).getLsbD 2 ∧
    reports cfg (presenceField .l2Iu) = (cfg 0xa).getLsbD 3 ∧ (unifyField .l2Iu).map (reports cfg) = some ((cfg 0xa).getLsbD 4) ∧
    (perCoreField .l2Iu).map (reports cfg) = some ((cfg 0xa).getLsbD 5) ∧
    (inclusiveField .l2Iu).map (reports cfg) = some ((cfg 0xa).getLsbD 6) ∧
    reports cfg (presenceField .l2D) = (cfg 0xa).getLsbD 7 ∧
    (perCoreField .l2D).map (reports cfg) = some ((cfg 0xa).getLsbD 8) ∧
    (inclusiveField .l2D).map (reports cfg) = some ((cfg 0xa).getLsbD 9)) ∧
  [CfgField.l1IuPresent, .l1IuUnify, .l1DPresent, .l2IuPresent, .l2IuUnify, .l2IuPrivate, .l2IuInclusive, .l2DPresent,
    .l2DPrivate, .l2DInclusive].map (fun f => (cfgRow f).possible) =
    [some 1, some 0, some 1, some 1, some 1, some 1, some 0, some 0, some 0, some 0] ∧
  (∀ cc5, geometryWord .l1Iu = some 0xb ∧ geometryWord .l1D = some 0xc ∧ geometryWord .l2Iu = some 0xd ∧
    cacheRelations (cfgExample cc5) .l1Iu = some ⟨some false, none, none⟩ ∧
    cacheRelations (cfgExample cc5) .l2Iu = some ⟨some true, some true, some false⟩ ∧
    cacheRelations (cfgExample cc5) .l2D = none)

/-- R111, R112, R114 to R117: the bits of word 0xa on the third-level caches, with their possible values. Bit 12 (R113) is
stated too; what the spec infers from it is not. -/
def Obligations.ThirdLevelCacheBits : Prop :=
  (∀ cfg : Nat → CfgWord,
    reports cfg (presenceField .l3Iu) = (cfg 0xa).getLsbD 10 ∧
    (unifyField .l3Iu).map (reports cfg) = some ((cfg 0xa).getLsbD 11) ∧
    (perCoreField .l3Iu).map (reports cfg) = some ((cfg 0xa).getLsbD 12) ∧
    (inclusiveField .l3Iu).map (reports cfg) = some ((cfg 0xa).getLsbD 13) ∧
    reports cfg (presenceField .l3D) = (cfg 0xa).getLsbD 14 ∧
    (perCoreField .l3D).map (reports cfg) = some ((cfg 0xa).getLsbD 15) ∧
    (inclusiveField .l3D).map (reports cfg) = some ((cfg 0xa).getLsbD 16)) ∧
  [CfgField.l3IuPresent, .l3IuUnify, .l3IuPrivate, .l3IuInclusive, .l3DPresent, .l3DPrivate, .l3DInclusive].map
    (fun f => (cfgRow f).possible) = [some 1, some 1, some 0, some 1, some 0, some 0, some 0] ∧
  (∀ cc5, geometryWord .l3Iu = some 0xe ∧
    cacheRelations (cfgExample cc5) .l3Iu = some ⟨some true, some false, some true⟩ ∧
    cacheRelations (cfgExample cc5) .l3D = none)

/-- R118: the layout of the geometry words and the meaning of their fields, and which presence bit each word goes with. -/
def Obligations.GeometryWordLayout : Prop :=
  (∀ g : CfgWord,
    (g.extractLsb 31 31 ++ g.extractLsb 30 24 ++ g.extractLsb 23 16 ++ g.extractLsb 15 0 : BitVec 32) = g ∧
    (geometryOf g).ways = (g.extractLsb 15 0).toNat + 1 ∧
    (geometryOf g).sets = 2 ^ (g.extractLsb 23 16).toNat ∧
    (geometryOf g).lineBytes = 2 ^ (g.extractLsb 30 24).toNat) ∧
  (∀ cfg : Nat → CfgWord,
    (cfg 0xa).getLsbD 0 = true → cacheGeometry cfg .l1Iu = some (geometryOf (cfg 0xb))) ∧
  (∀ cfg : Nat → CfgWord,
    (cfg 0xa).getLsbD 2 = true → cacheGeometry cfg .l1D = some (geometryOf (cfg 0xc))) ∧
  (∀ cfg : Nat → CfgWord,
    (cfg 0xa).getLsbD 3 = true → cacheGeometry cfg .l2Iu = some (geometryOf (cfg 0xd))) ∧
  (∀ cfg : Nat → CfgWord,
    (cfg 0xa).getLsbD 10 = true → cacheGeometry cfg .l3Iu = some (geometryOf (cfg 0xe))) ∧
  (∀ cfg : Nat → CfgWord, cacheGeometry cfg .l2D = none ∧ cacheGeometry cfg .l3D = none) ∧
  (∀ n, 0xb ≤ n → n ≤ 0xe → assignedMask n = 0x7FFFFFFF#32) ∧
  (∀ f ∈ [CfgField.l1IuLine, .l1DLine, .l2IuLine, .l3IuLine], fieldWidth f = 7 ∧ (cfgRow f).possible = some 6)

/-- R119, R120, R122, R123, R125, R126, R128, R129: `Way-1` and `Index-log2` of the four geometry words, their places,
possible values and what they mean; the shapes under `CFG_EXAMPLE`. -/
def Obligations.ExampleCacheShapes : Prop :=
  (∀ f ∈ [CfgField.l1IuWay, .l1DWay, .l2IuWay, .l3IuWay], fieldLo f = 0 ∧ fieldWidth f = 16) ∧
  (∀ f ∈ [CfgField.l1IuIndex, .l1DIndex, .l2IuIndex, .l3IuIndex], fieldLo f = 16 ∧ fieldWidth f = 8) ∧
  (∀ cfg : Nat → CfgWord,
    (geometryOf (cfg 0xb)).ways = readField cfg .l1IuWay + 1 ∧ (geometryOf (cfg 0xc)).ways = readField cfg .l1DWay + 1 ∧
    (geometryOf (cfg 0xd)).ways = readField cfg .l2IuWay + 1 ∧ (geometryOf (cfg 0xe)).ways = readField cfg .l3IuWay + 1 ∧
    (geometryOf (cfg 0xb)).sets = 2 ^ readField cfg .l1IuIndex ∧ (geometryOf (cfg 0xc)).sets = 2 ^ readField cfg .l1DIndex ∧
    (geometryOf (cfg 0xd)).sets = 2 ^ readField cfg .l2IuIndex ∧ (geometryOf (cfg 0xe)).sets = 2 ^ readField cfg .l3IuIndex) ∧
  (∀ cc5, cacheGeometry (cfgExample cc5) .l1Iu = some ⟨4, 256, 64⟩ ∧ cacheGeometry (cfgExample cc5) .l1D = some ⟨4, 256, 64⟩ ∧
    cacheGeometry (cfgExample cc5) .l2Iu = some ⟨16, 256, 64⟩ ∧ cacheGeometry (cfgExample cc5) .l3Iu = some ⟨16, 256, 64⟩)

/-- The capacity of a cache and its values under `CFG_EXAMPLE` and off it (42 R131, an inference the spec marks; 95 V6). -/
def Obligations.CacheCapacities : Prop :=
  (∀ g : CfgWord, cacheBytes (geometryOf g) =
    ((g.extractLsb 15 0).toNat + 1) * 2 ^ ((g.extractLsb 23 16).toNat + (g.extractLsb 30 24).toNat)) ∧
  cacheBytes (geometryOf 0x07100007#32) = 67108864 ∧
  (∀ cc5, (cacheGeometry (cfgExample cc5) .l1Iu).map cacheBytes = some 65536 ∧
    (cacheGeometry (cfgExample cc5) .l1D).map cacheBytes = some 65536 ∧
    (cacheGeometry (cfgExample cc5) .l2Iu).map cacheBytes = some 262144 ∧
    (cacheGeometry (cfgExample cc5) .l3Iu).map cacheBytes = some 262144)

/-- Nothing is read into the dependent fields of a cache whose presence bit is 0, whatever they hold (42 R132, decision D20;
log 22). -/
def Obligations.AbsentCachesReportNothing : Prop :=
  ∀ (cfg : Nat → CfgWord) (c : CacheName), readField cfg (presenceField c) = 0 →
    cacheRelations cfg c = none ∧ cacheGeometry cfg c = none
end

