-- ==== Sys2Proof/Laws/State.lean ====
section
/-! SUPPORT. One lemma per field per update of the state, and the register file's laws. -/

namespace Sys2Proof.Machine

section
variable (s : State)

@[simp] theorem advancePc_regs : (advancePc s).regs = s.regs := rfl
@[simp] theorem advancePc_pc : (advancePc s).pc = s.pc + 4#64 := rfl
@[simp] theorem advancePc_mem : (advancePc s).mem = s.mem := rfl
@[simp] theorem advancePc_endAt : (advancePc s).endAt = s.endAt := rfl
@[simp] theorem readReg_advancePc (r : Nat) : readReg (advancePc s) r = readReg s r := rfl

@[simp] theorem writeReg_pc (r : Nat) (v : Word) : (writeReg s r v).pc = s.pc := by
  unfold writeReg; split <;> rfl
@[simp] theorem writeReg_mem (r : Nat) (v : Word) : (writeReg s r v).mem = s.mem := by
  unfold writeReg; split <;> rfl
@[simp] theorem writeReg_endAt (r : Nat) (v : Word) : (writeReg s r v).endAt = s.endAt := by
  unfold writeReg; split <;> rfl
theorem writeReg_regs (r : Nat) (v : Word) :
    (writeReg s r v).regs = if r = 0 then s.regs else s.regs.setIfInBounds r v := by
  unfold writeReg; split <;> rfl

@[simp] theorem placeWord_regs (w : InsnWord) : (placeWord s w).regs = s.regs := rfl
@[simp] theorem placeWord_endAt (w : InsnWord) : (placeWord s w).endAt = s.endAt := rfl
@[simp] theorem placeWord_pc (w : InsnWord) : (placeWord s w).pc = alignDown s.pc := rfl
@[simp] theorem placeWord_mem (w : InsnWord) :
    (placeWord s w).mem = Memory.writeWord s.mem (alignDown s.pc).toNat w := rfl

end

section
variable (l : Launch)

@[simp] theorem launchState_pc : (launchState l).pc = l.entry := rfl
@[simp] theorem launchState_mem : (launchState l).mem = placeText [] l.text := rfl
@[simp] theorem launchState_endAt : (launchState l).endAt = l.endAt := rfl
@[simp] theorem launchState_regs : (launchState l).regs = l.regs.setIfInBounds 0 0#64 := rfl

end

/-- A register operand of the machine is below 32. -/
theorem wf_cpucfg_iff (rd rj : Nat) : (Instr.cpucfg rd rj).wf = true ↔ rd < 32 ∧ rj < 32 := by
  change (decide (rd < 32) && decide (rj < 32)) = true ↔ _
  simp only [Bool.and_eq_true, decide_eq_true_eq]

/-- `r0` reads as zero (10_state R11). -/
@[simp] theorem readReg_zero (s : State) : readReg s 0 = 0#64 := rfl

/-- What a register reads after a write: the value in the register written, unless it is `r0`, and what it read before in
every other. -/
theorem readReg_writeReg (s : State) (r q : Nat) (v : Word) (hr : r < 32) :
    readReg (writeReg s r v) q = if q = r ∧ q ≠ 0 then v else readReg s q := by
  unfold readReg writeReg
  by_cases hr0 : r = 0
  · by_cases hq : q = 0 <;> simp [hr0, hq]
  · by_cases hq : q = 0
    · simp [hq]
    · simp only [hr0, hq, if_false, ne_eq, not_false_eq_true, and_true]
      rw [Vector.getElem?_setIfInBounds]
      by_cases hqr : q = r
      · subst hqr; simp [hr]
      · simp [hqr, show r ≠ q from fun h => hqr h.symm]

end Sys2Proof.Machine
end

