-- ==== Sys2Proof/Laws/Memory.lean ====
section
/-! SUPPORT. The laws of memory: a byte read after a byte or a word was placed, and the canonical form kept. -/

namespace Sys2Proof.Machine

/-- Placing a byte changes what that address reads and no other. -/
theorem readByte_writeByte (m : Memory) (a c : Nat) (b : Byte) :
    Memory.readByte (Memory.writeByte m a b) c = if c = a then some b else Memory.readByte m c := by
  induction m with
  | nil => simp [Memory.writeByte, Memory.readByte]
  | cons h rest ih =>
    obtain ⟨k, d⟩ := h
    unfold Memory.writeByte
    split
    · simp only [Memory.readByte]
    · split
      · rename_i _ hak
        subst hak
        by_cases hc : c = a <;> simp [Memory.readByte, hc]
      · rename_i _ hak
        simp only [Memory.readByte, ih]
        by_cases hck : c = k
        · have : c ≠ a := fun h => hak (h.symm.trans hck)
          simp [hck, show k ≠ a from fun h => hak h.symm]
        · simp [hck]

/-- Placing a byte below 2^64 keeps the addresses rising from any bound that does not exceed it. -/
theorem writeByte_risesFrom (m : Memory) (a lo : Nat) (b : Byte) (ha : a < 2 ^ 64) (hlo : lo ≤ a)
    (h : Memory.risesFrom lo m = true) : Memory.risesFrom lo (Memory.writeByte m a b) = true := by
  induction m generalizing lo with
  | nil => simpa [Memory.writeByte, Memory.risesFrom, hlo] using ha
  | cons e rest ih =>
    obtain ⟨k, d⟩ := e
    simp only [Memory.risesFrom, Bool.and_eq_true, decide_eq_true_eq] at h
    obtain ⟨⟨h1, h2⟩, h3⟩ := h
    unfold Memory.writeByte
    split
    · rename_i hak
      simp only [Memory.risesFrom, Bool.and_eq_true, decide_eq_true_eq]
      exact ⟨⟨hlo, ha⟩, ⟨by omega, h2⟩, h3⟩
    · split
      · rename_i _ hak
        subst hak
        simp only [Memory.risesFrom, Bool.and_eq_true, decide_eq_true_eq]
        exact ⟨⟨hlo, ha⟩, h3⟩
      · simp only [Memory.risesFrom, Bool.and_eq_true, decide_eq_true_eq]
        exact ⟨⟨h1, h2⟩, ih (k + 1) (by omega) h3⟩

/-- Placing a byte keeps the canonical form. -/
theorem writeByte_wf (m : Memory) (a : Nat) (b : Byte) (ha : a < 2 ^ 64) (h : Memory.wf m = true) :
    Memory.wf (Memory.writeByte m a b) = true :=
  writeByte_risesFrom m a 0 b ha (Nat.zero_le a) h

/-- Placing a word keeps the canonical form. -/
theorem writeWord_wf (m : Memory) (a : Nat) (w : InsnWord) (ha : a + 3 < 2 ^ 64) (h : Memory.wf m = true) :
    Memory.wf (Memory.writeWord m a w) = true :=
  writeByte_wf _ _ _ (by omega) (writeByte_wf _ _ _ (by omega)
    (writeByte_wf _ _ _ (by omega) (writeByte_wf _ _ _ (by omega) h)))

/-- Launching from empty memory keeps the canonical form: every address of a well-formed text leaves room for its word. -/
theorem placeText_wf (t : List (Nat × InsnWord)) (lo : Nat) (m : Memory) (ht : textOk lo t = true)
    (h : Memory.wf m = true) : Memory.wf (placeText m t) = true := by
  induction t generalizing lo m with
  | nil => exact h
  | cons e rest ih =>
    obtain ⟨a, w⟩ := e
    simp only [textOk, Bool.and_eq_true, decide_eq_true_eq] at ht
    exact ih (a + 4) _ ht.2 (writeWord_wf m a w (by omega) h)

/-- What a byte reads after a word was placed: byte `k` of the word at the address plus `k`, and what it read before
everywhere else. -/
theorem readByte_writeWord (m : Memory) (a c : Nat) (w : InsnWord) :
    Memory.readByte (Memory.writeWord m a w) c =
      if a ≤ c ∧ c < a + 4 then some (byteOfWord w (c - a)) else Memory.readByte m c := by
  unfold Memory.writeWord
  simp only [readByte_writeByte]
  by_cases h3 : c = a + 3
  · subst h3; simp
  by_cases h2 : c = a + 2
  · subst h2; simp
  by_cases h1 : c = a + 1
  · subst h1; simp
  by_cases h0 : c = a
  · subst h0; simp
  have : ¬(a ≤ c ∧ c < a + 4) := by omega
  simp [h0, h1, h2, h3, this]

/-- The bytes of a word, assembled, are the word. -/
theorem wordOfBytes_byteOfWord (w : InsnWord) :
    wordOfBytes (byteOfWord w 0) (byteOfWord w 1) (byteOfWord w 2) (byteOfWord w 3) = w := by
  apply BitVec.eq_of_getLsbD_eq
  intro i hi
  simp only [wordOfBytes, byteOfWord, BitVec.getLsbD_append, BitVec.getLsbD_setWidth, BitVec.getLsbD_ushiftRight]
  by_cases h0 : i < 8
  · simp [h0]
  by_cases h1 : i < 16
  · simp [h0, show i - 8 < 8 by omega, show 8 + (i - 8) = i by omega]
  by_cases h2 : i < 24
  · simp [h0, show ¬ i - 8 < 8 by omega, show i - 8 - 8 < 8 by omega, show 16 + (i - 8 - 8) = i by omega]
  · simp [h0, show ¬ i - 8 < 8 by omega, show ¬ i - 8 - 8 < 8 by omega, show i - 8 - 8 - 8 < 8 by omega,
      show 24 + (i - 8 - 8 - 8) = i by omega]

/-- A word placed is the word read at the same address. -/
theorem readWord_writeWord_same (m : Memory) (a : Nat) (w : InsnWord) :
    Memory.readWord (Memory.writeWord m a w) a = some w := by
  simp [Memory.readWord, Memory.readWordBytes, readByte_writeWord, wordOfBytes_byteOfWord]

/-- A word placed leaves the word read at an address whose bytes it does not touch. -/
theorem readWord_writeWord_apart (m : Memory) (a c : Nat) (w : InsnWord) (h : c + 4 ≤ a ∨ a + 4 ≤ c) :
    Memory.readWord (Memory.writeWord m a w) c = Memory.readWord m c := by
  have key : ∀ k, k < 4 → Memory.readByte (Memory.writeWord m a w) (c + k) = Memory.readByte m (c + k) := by
    intro k hk
    rw [readByte_writeWord, if_neg (by omega)]
  have h0 := key 0 (by omega)
  rw [Nat.add_zero] at h0
  simp only [Memory.readWord, Memory.readWordBytes, h0, key 1 (by omega), key 2 (by omega), key 3 (by omega)]

/-- `TEXT` after an instruction word was placed at a multiple of 4: that word there, and what it was elsewhere. -/
theorem textAt_writeWord (m : Memory) (a c : Nat) (w : InsnWord) (ha : a % 4 = 0) :
    textAt (Memory.writeWord m a w) c = if c = a then some w else textAt m c := by
  by_cases hca : c = a
  · subst hca; simp [textAt, ha, readWord_writeWord_same]
  · unfold textAt
    by_cases hc : c % 4 = 0
    · simp only [hc, if_true, hca, if_false]
      exact readWord_writeWord_apart m a c w (by omega)
    · simp [hc, hca]

end Sys2Proof.Machine
end

