-- ==== Sys2Proof/Laws/PerInstr.lean ====
section
/-! SUPPORT. Statements about every instruction as syntax, one lemma per constructor. -/

namespace Sys2Proof.Laws.TableRow

/-- The instruction's word has the fixed bits of its row of the opcode table (30_encoding R40). -/
def Statement : Instr → Prop
  | .cpucfg rd rj => encode (.cpucfg rd rj) &&& cpucfgMask = cpucfgMatch

/-- `CPUCFG` has the fixed bits of its row, whatever its operands. -/
theorem cpucfg (rd rj : Nat) : Statement (.cpucfg rd rj) := by
  change (cpucfgOpcode ++ BitVec.ofNat 5 rj ++ BitVec.ofNat 5 rd) &&& cpucfgMask = cpucfgMatch
  apply BitVec.eq_of_getLsbD_eq
  intro i hi
  simp only [BitVec.getLsbD_and, BitVec.getLsbD_append, cpucfgOpcode, cpucfgMask, cpucfgMatch]
  interval_cases i <;> simp

end Sys2Proof.Laws.TableRow
end

