-- ==== Sys2Proof/Laws/Step.lean ====
section
/-! SUPPORT. What the meaning of `CPUCFG`, `exec`, `step` and `launch` can do, each said once. -/

namespace Sys2Proof.Machine

/-- All that `CPUCFG` can answer: its effect on register numbers of the machine, a refusal on other terms. -/
theorem cpucfgWith_eq (c : Config) (rd rj : Nat) (s : State) :
    cpucfgWith c rd rj s =
      if rd < 32 ∧ rj < 32 then
        .next (advancePc (writeReg s rd (widen c.ext (c.cfg (readReg s rj).toNat))))
      else .refused .noSuchRegister := by
  unfold cpucfgWith
  by_cases h : rd < 32 ∧ rj < 32
  · rw [if_pos h, if_pos ((wf_cpucfg_iff rd rj).2 h)]; rfl
  · rw [if_neg h, if_neg (fun hw => h ((wf_cpucfg_iff rd rj).1 hw))]

/-- `exec` on `CPUCFG` is its meaning on the chip at hand. -/
theorem exec_cpucfg (rd rj : Nat) (s : State) : exec (.cpucfg rd rj) s = cpucfgWith Config.chip rd rj s := rfl

/-- If an instruction answers a next state, it is a `CPUCFG` of two registers and the state is that of its effect. -/
theorem exec_next (i : Instr) (s t : State) (h : exec i s = .next t) :
    ∃ rd rj, i = .cpucfg rd rj ∧ rd < 32 ∧ rj < 32 ∧
      t = advancePc (writeReg s rd (widen Config.chip.ext (Config.chip.cfg (readReg s rj).toNat))) := by
  cases i with
  | cpucfg rd rj =>
    rw [exec_cpucfg, cpucfgWith_eq] at h
    split at h
    · rename_i hr
      exact ⟨rd, rj, rfl, hr.1, hr.2, (Host.Outcome.next.inj h).symm⟩
    · cases h

/-- If a step answers a next state, the word fetched decodes to an instruction whose execution answers it. -/
theorem step_next (s t : State) (h : step s = .next t) :
    isFinal s = false ∧ ∃ w i, fetch s = some w ∧ decodeWord w = some i ∧ exec i s = .next t := by
  unfold step stepBy at h
  split at h
  · cases h
  · rename_i hf
    refine ⟨by simpa using hf, ?_⟩
    split at h
    · cases h
    · rename_i w hw
      split at h
      · rename_i i hi
        exact ⟨w, i, hw, hi, h⟩
      · cases h

/-- If a launch answers a state, its checks hold and the state is the launch state. -/
theorem launch_next (l : Launch) (s : State) (h : launch l = .next s) :
    textOk 0 l.text = true ∧ l.entry.toNat % 4 = 0 ∧ (fetch (launchState l)).isNone = false ∧ endClashes l = false ∧
      s = launchState l := by
  unfold launch at h
  split at h
  · cases h
  · rename_i h1
    split at h
    · cases h
    · rename_i h2
      split at h
      · cases h
      · rename_i h3
        split at h
        · cases h
        · rename_i h4
          exact ⟨by simpa using h1, by simpa using h2, Bool.eq_false_iff.2 h3, Bool.eq_false_iff.2 h4,
            (Host.Outcome.next.inj h).symm⟩

/-- `END` is never in the domain of `TEXT`. -/
theorem endOf_not_in_text (s : State) (a : Word) (h : endOf s = some a) : textAt s.mem a.toNat = none := by
  unfold endOf at h
  split at h
  · split at h
    · cases h
    · rename_i hn
      cases h
      simpa using hn
  · cases h

end Sys2Proof.Machine
end

