-- ==== Sys2Proof/Machine/Assembler.lean ====
section
/-! DEFINITION. The assembler form of an instruction and the names of the registers (30_encoding R43, 10_state R10). No rule
of the machine depends on them (log 24). -/

namespace Sys2Proof.Machine

/-- Register `n` in toolchain text, `$r<n>` (R43). -/
def regText (n : Nat) : String := "$r" ++ toString n

/-- An instruction in toolchain text: mnemonic, destination register, comma, source register (R43). -/
def asmText : Instr → String
  | .cpucfg rd rj => "cpucfg " ++ regText rd ++ ", " ++ regText rj

/-- The application-binary-interface alias of register `n` (R10, general knowledge); none for the reserved r21 and where
there is no register. -/
def regAlias (n : Nat) : Option String :=
  if n = 0 then some "$zero" else if n = 1 then some "$ra" else if n = 2 then some "$tp" else if n = 3 then some "$sp"
  else if n ≤ 11 then some ("$a" ++ toString (n - 4)) else if n ≤ 20 then some ("$t" ++ toString (n - 12))
  else if n = 21 then none else if n = 22 then some "$fp"
  else if n ≤ 31 then some ("$s" ++ toString (n - 23)) else none

end Sys2Proof.Machine
end

