-- ==== Sys2Proof/Machine/Flags.lean ====
section
/-! DEFINITION. Flag computations: there are none. "The source names no status flag, condition code or predicate register,
and `CPUCFG` reads and writes none" (10_state R21, 40_cpucfg R51). -/
end

