-- ==== Sys2Proof/Tests/Slice0.lean ====
section
/-! SUPPORT. Tests. Every expected result is taken from spec/95_test_vectors.md or worked out by hand from the rule named;
the witness theorems show states and operands that meet the hypotheses of the statements. -/

namespace Sys2Proof.Tests

open Sys2Proof.Machine

/-! ### Well-formed instructions (40_cpucfg R45: register numbers 0 to 31) -/

theorem test_wf_refuses_rd_32 : (Instr.cpucfg 32 0).wf = false := by decide
theorem test_wf_refuses_rj_32 : (Instr.cpucfg 0 32).wf = false := by decide
theorem test_wf_accepts_31_31 : (Instr.cpucfg 31 31).wf = true := by decide

/-! ### Decoding (30_encoding R40, 95 V1): opcode 0000 0000 0000 0000 0110 11, then jj jjj, then d dddd -/

theorem test_decode_cpucfg_r5_r4 :
    decodeWord 0b00000000000000000110110010000101#32 = some (.cpucfg 5 4) := by decide
theorem test_decode_cpucfg_r1_r2 :
    decodeWord 0b00000000000000000110110001000001#32 = some (.cpucfg 1 2) := by decide
theorem test_decode_cpucfg_r0_r31 :
    decodeWord 0b00000000000000000110111111100000#32 = some (.cpucfg 0 31) := by decide
theorem test_decode_cpucfg_r31_r0 :
    decodeWord 0b00000000000000000110110000011111#32 = some (.cpucfg 31 0) := by decide

/-- V1, the words that are not `CPUCFG`. -/
theorem test_decode_refuses_other_words :
    [0x00006800#32, 0x00007000#32, 0x00007085#32, 0x00016C85#32, 0x80006C85#32, 0x00002C85#32, 0x00000000#32,
      0xFFFFFFFF#32].map decodeWord = List.replicate 8 none := by decide

/-- V1: `cpucfg $r5, $r12` in bytes, and a word cut short. -/
theorem test_decode_bytes :
    decode [0x85#8, 0x6D#8, 0x00#8, 0x00#8, 0xFF#8] = .instr (.cpucfg 5 12) [0xFF#8] ∧
    decode [0x85#8, 0x6D#8, 0x00#8] = .truncated := by decide

/-- V1: the bytes of `cpucfg $r7, $r15`. -/
theorem test_encode_bytes : encodeBytes (.cpucfg 7 15) = [0xE7#8, 0x6D#8, 0x00#8, 0x00#8] := by decide

/-- The opcode table's own match value. -/
theorem test_decode_table_row : decodeTableWord 32 0x00006C00 = some (.cpucfg 0 0) := by decide

/-- 30_encoding R43. -/
theorem test_asm_text : asmText (.cpucfg 5 4) = "cpucfg $r5, $r4" := by decide

/-! ### One step -/

/-- A register file that holds the values listed and 0 elsewhere. -/
def regsOf (l : List (Nat × Word)) : Vector Word 32 :=
  l.foldl (fun v p => v.setIfInBounds p.1 p.2) (Vector.replicate 32 0#64)

/-- A launch at 0x1000 of one instruction word. -/
def oneWord (w : InsnWord) (l : List (Nat × Word)) : Launch := ⟨0x1000#64, [(0x1000, w)], none, regsOf l⟩

/-- The state that launch starts in. -/
def at1000 (w : InsnWord) (l : List (Nat × Word)) : State := launchState (oneWord w l)

/-- V2, the row of word 0x1, and R45's worked example. -/
theorem test_cpucfg_word_one (cc5 : CfgWord) :
    ∃ t, cpucfgWith (exampleConfig cc5) 5 4 (at1000 0x00006C85#32 [(4, 1#64)]) = .next t ∧
      readReg t 5 = 0x3F2F2FE#64 ∧ readReg t 4 = 1#64 ∧ t.pc = 0x1004#64 :=
  ⟨_, rfl, rfl, rfl, rfl⟩

/-- V3: `rd` = `rj`, and P2's first step: word 0xa replaces its own number. -/
theorem test_cpucfg_in_place (cc5 : CfgWord) :
    ∃ t, cpucfgWith (exampleConfig cc5) 4 4 (at1000 0x00006C84#32 [(4, 0xA#64)]) = .next t ∧
      readReg t 4 = 0x2C3D#64 :=
  ⟨_, rfl, rfl⟩

/-- V5: the widening of 0x80000001 and 0x7FFFFFFF. -/
theorem test_widen :
    widen .sext 0x80000001#32 = 0xFFFFFFFF80000001#64 ∧ widen .zext 0x80000001#32 = 0x0000000080000001#64 ∧
    widen .sext 0x7FFFFFFF#32 = 0x000000007FFFFFFF#64 ∧ widen .zext 0x7FFFFFFF#32 = 0x000000007FFFFFFF#64 := by decide

/-- The instruction placed after reset is the first one run: `pc` advances to 4. -/
theorem test_first_instruction_after_reset :
    ∃ t, step (State.reset.withFetchWord 32 0x00006C85) = .next t ∧ t.pc = 4#64 :=
  ⟨_, rfl, rfl⟩

/-- V7: refused, stuck (nothing is placed after reset), final. -/
theorem test_step_stops :
    step (at1000 0x00006800#32 []) = .refused (.notInSpec 0x00006800#32) ∧
    step State.reset = .fault .fetchOutsideText ∧
    step ⟨regsOf [], 0x1004#64, placeText [] [(0x1000, 0x00006C04#32)], none⟩ = .fault .runOver :=
  ⟨rfl, rfl, rfl⟩

/-- P6: with `END` = 0x6008 named, the address after the one instruction is stuck; V3: the default `END` of an instruction
at the top of the address space is 0. -/
theorem test_end_of_run :
    step ⟨regsOf [], 0x6004#64, placeText [] [(0x6000, 0x00006C04#32)], some 0x6008#64⟩ = .fault .fetchOutsideText ∧
    defaultEnd (placeText [] [(0xFFFFFFFFFFFFFFFC, 0x00006C05#32)]) = some 0#64 :=
  ⟨rfl, by decide⟩

/-- V7: the launches that are refused. -/
theorem test_launch_refusals :
    launch ⟨0x1002#64, [(0x1000, 0x00006C04#32)], none, regsOf []⟩ = .refused .entryMisaligned ∧
    launch ⟨0x2000#64, [(0x1000, 0x00006C04#32)], none, regsOf []⟩ = .refused .entryOutsideText ∧
    launch ⟨0x1000#64, [(0x1000, 0x00006C04#32)], some 0x1000#64, regsOf []⟩ = .refused .endInsideText ∧
    launch ⟨0x1000#64, [(0x1002, 0x00006C04#32)], none, regsOf []⟩ = .refused .textMalformed :=
  ⟨rfl, rfl, rfl, rfl⟩

/-! ### Configuration words -/

/-- V6: the quantities derived from the example words, and ARCH. -/
theorem test_example_quantities :
    physAddrBits (cfgExample 0#32) = 48 ∧ virtAddrBits (cfgExample 0#32) = 48 ∧ pageWalkLevels (cfgExample 0#32) = 4 ∧
    rvaMax (cfgExample 0#32) = 2 ∧ perfMonitors (cfgExample 0#32) = 4 ∧ perfMonitorBits (cfgExample 0#32) = 64 ∧
    arch (cfgExample 0#32) = .la64 ∧ interruptMode (cfgExample 0#32) = .levelLine := by decide

/-- V6: the cache capacities, and a geometry word off the example. -/
theorem test_cache_shapes :
    (cacheGeometry (cfgExample 0#32) .l1D).map cacheBytes = some 65536 ∧
    (cacheGeometry (cfgExample 0#32) .l3Iu).map cacheBytes = some 262144 ∧
    geometryOf 0x07100007#32 = ⟨8, 65536, 128⟩ := by decide

/-- Each word of the example but 0x5 is composed of the possible values of its fields (R54, R67, R79, R94, R100, R121 and so
on give the same sums). -/
theorem test_example_words_composed :
    ∀ n ∈ [0x0, 0x1, 0x2, 0x3, 0x6, 0xa, 0xb, 0xc, 0xd, 0xe],
      composeWord n (fun f => ((cfgRow f).possible).getD 0) 0#32 = cfgExample 0#32 n := by decide

/-! ### Witnesses: states and operands that meet the hypotheses of each statement that has some -/

/-- The state of V3's row "other registers untouched", in part: `x[4]` = 0x0404040404040404. -/
def someState : State := at1000 0x00006C85#32 [(4, 0x0404040404040404#64), (5, 7#64)]

theorem witness_CpucfgFollowsItsDefinition :
    (31 < 32 ∧ 0 < 32) ∧ readReg (at1000 0x00006C85#32 [(4, 1#64)]) 4 = 1#64 ∧
      (at1000 0x00006C85#32 [(4, 1#64)]).pc = 0x1000#64 := by decide
theorem witness_CpucfgOnTheChipCompletes : 31 < 32 ∧ 0 < 32 ∧ 31 ≠ 0 := by decide
theorem witness_CpucfgFrame : ∃ t, exec (.cpucfg 5 4) someState = .next t := ⟨_, rfl⟩
theorem witness_CpucfgToR0OnlyAdvancesPc : 31 < 32 := by decide
theorem witness_CpucfgResultFeedsTheNextCpucfg : 4 < 32 ∧ 4 < 32 ∧ 31 < 32 ∧ 4 ≠ 0 ∧ 31 ≠ 0 := by decide
theorem witness_WideningChoicesAgreeBelowBit31 : (32 ≤ 32 ∧ 32 < 64) ∧ (32 ≤ 63 ∧ 63 < 64) := by decide
theorem witness_NarrowIndexAgreesOnSmallNumbers :
    5 < 32 ∧ 4 < 32 ∧ (readReg (at1000 0x00006C85#32 [(4, 0xFFFFFFFF#64)]) 4).toNat < 2 ^ 32 := by decide
theorem witness_CpucfgReturnsTheExampleWords :
    (5 < 32 ∧ 4 < 32 ∧ 5 ≠ 0) ∧ readReg (at1000 0x00006C85#32 [(4, 0xe#64)]) 4 = 0xe#64 ∧
    readReg (at1000 0x00006C85#32 [(4, 0#64)]) 4 = 0#64 ∧ readReg (at1000 0x00006C85#32 [(4, 5#64)]) 4 = 5#64 ∧
    (readReg (at1000 0x00006C85#32 [(4, 0x100000001#64)]) 4).toNat ∉ listedWords ∧
    (readReg (at1000 0x00006C85#32 [(4, 0xf#64)]) 4).toNat ∉ listedWords := by decide
theorem witness_CpucfgDependsOnlyOnRj :
    (5 < 32 ∧ 4 < 32) ∧ readReg someState 4 = readReg (at1000 0#32 [(4, 0x0404040404040404#64)]) 4 ∧
    readReg someState 5 ≠ readReg (at1000 0#32 [(4, 0x0404040404040404#64)]) 5 := by decide
theorem witness_EveryInstructionIsLegalEverywhere : (Instr.cpucfg 0 31).wf = true := by decide
theorem witness_NoSuchRegisterIsRefused : (32 ≤ 32 ∨ 32 ≤ 0) ∧ (32 ≤ 0 ∨ 32 ≤ 32) := by decide
theorem witness_FeatureTestReadsTheField :
    (5 < 32 ∧ 4 < 32 ∧ 5 ≠ 0) ∧
    readReg (at1000 0x00006C85#32 [(4, 0xe#64)]) 4 = BitVec.ofNat 64 (fieldWord .l3IuLine) := by decide
theorem witness_DecodeOfEncodeIsTheInstruction : (Instr.cpucfg 31 31).wf = true := by decide
theorem witness_EncodeOfDecodeIsTheWord : decodeWord 0x00006FFF#32 = some (.cpucfg 31 31) := by decide
theorem witness_StepRunsTheDecodedInstruction :
    someState.pc.toNat % 4 = 0 ∧
    Memory.readWordBytes someState.mem someState.pc.toNat = some [0x85#8, 0x6C#8, 0x00#8, 0x00#8] ∧
    decode [0x85#8, 0x6C#8, 0x00#8, 0x00#8] = .instr (.cpucfg 5 4) [] := by decide

/-- A state at an address of the text 0x1000 to 0x1004, its `pc` and its named `END` chosen. -/
def twoWords (pc : Word) (endAt : Option Word) : State :=
  ⟨regsOf [], pc, placeText [] [(0x1000, 0x00006FFF#32), (0x1004, 0x00007000#32)], endAt⟩

theorem witness_StepOutcomeByWhereThePcIs :
    (textAt (twoWords 0x1000#64 none).mem 0x1000 = some 0x00006FFF#32 ∧
      0x00006FFF#32 &&& 0xFFFFFC00#32 = 0x00006C00#32) ∧
    (textAt (twoWords 0x1004#64 none).mem 0x1004 = some 0x00007000#32 ∧
      0x00007000#32 &&& 0xFFFFFC00#32 ≠ 0x00006C00#32) ∧
    (textAt (twoWords 0x1008#64 none).mem 0x1008 = none ∧ endOf (twoWords 0x1008#64 none) = some 0x1008#64) ∧
    (textAt (twoWords 0x1002#64 none).mem 0x1002 = none ∧ endOf (twoWords 0x1002#64 none) ≠ some 0x1002#64) := by decide
theorem witness_StepChangesOneRegisterAndThePc : ∃ t, step someState = .next t := ⟨_, rfl⟩
theorem witness_StepKeepsTheInvariant : someState.Inv ∧ ∃ t, step someState = .next t :=
  ⟨⟨by decide, by decide, by decide⟩, _, rfl⟩
theorem witness_PlacedInstructionRunsNext :
    decodeTableWord 32 0x00006FFF = some (.cpucfg 31 31) ∧ someState.pc.toNat % 4 = 0 := by decide
theorem witness_StandingTellsTheStep :
    standing (twoWords 0x1000#64 none) = .runs (.cpucfg 31 31) ∧ standing (twoWords 0x1004#64 none) = .refusedNext ∧
    standing (twoWords 0x1008#64 none) = .final ∧ standing (twoWords 0x1002#64 none) = .stuck := by decide
theorem witness_StraightTextRunsToItsEnd :
    (∀ j, j < 1 → ∃ w, textAt someState.mem ((someState.pc.toNat + 4 * j) % 2 ^ 64) = some w ∧
      w &&& 0xFFFFFC00#32 = 0x00006C00#32) ∧ endOf someState = some 0x1004#64 :=
  ⟨fun j hj => ⟨0x00006C85#32, by rw [Nat.lt_one_iff.1 hj]; decide, by decide⟩, by decide⟩
theorem witness_LaunchStateIsThePremise : launch (oneWord 0x00006C85#32 [(31, 9#64)]) =
    .next (at1000 0x00006C85#32 [(31, 9#64)]) ∧ 31 < 32 ∧ 31 ≠ 0 := ⟨rfl, by decide, by decide⟩
theorem witness_LaunchPlacesTheText :
    launch (oneWord 0x00006C85#32 []) = .next (at1000 0x00006C85#32 []) := rfl
theorem witness_LaunchFixesTheEnd :
    (∃ s, launch (oneWord 0x00006C85#32 []) = .next s) ∧ (oneWord 0x00006C85#32 []).endAt = none ∧
    (oneWord 0x00006C85#32 []).text.getLast? = some (0x1000, 0x00006C85#32) ∧
    ∃ s, launch ⟨0x1000#64, [(0x1000, 0x00006C85#32)], some 0x1002#64, regsOf []⟩ = .next s :=
  ⟨⟨_, rfl⟩, rfl, rfl, _, rfl⟩
theorem witness_LaunchIsRefusedOrAccepted :
    textOk 0 [(0x1002, 0x00006C85#32)] = false ∧ textOk 0 [(0x1000, 0x00006C85#32)] = true ∧
    (0x1002#64).toNat % 4 ≠ 0 ∧ (0x1000#64).toNat % 4 = 0 ∧
    [(0x1000, 0x00006C85#32)].lookup (0x2000#64).toNat = none ∧
    [(0x1000, 0x00006C85#32)].lookup (0x1000#64).toNat = some 0x00006C85#32 ∧
    [(0x1000, 0x00006C85#32)].getLast? = some (0x1000, 0x00006C85#32) ∧
    [(0x1000, 0x00006C85#32)].lookup ((0x1000 + 4) % 2 ^ 64) = none := by decide
/-- A text at both ends of the address space: the default `END` wraps to 0, which the text holds. -/
def wrappingText : List (Nat × InsnWord) := [(0, 0x00006C00#32), (0xFFFFFFFFFFFFFFFC, 0x00006C05#32)]

/-- The hypotheses of the clauses on an `END` inside `TEXT`: by default, by wrapping, and named. -/
theorem witness_LaunchIsRefusedOrAccepted_endInsideText :
    textOk 0 wrappingText = true ∧ (0#64).toNat % 4 = 0 ∧ wrappingText.lookup (0#64).toNat = some 0x00006C00#32 ∧
    wrappingText.getLast? = some (0xFFFFFFFFFFFFFFFC, 0x00006C05#32) ∧
    wrappingText.lookup ((0xFFFFFFFFFFFFFFFC + 4) % 2 ^ 64) = some 0x00006C00#32 ∧
    wrappingText.lookup (0xFFFFFFFFFFFFFFFC#64).toNat = some 0x00006C05#32 := by decide

theorem witness_ListedWordsAreEleven : 0x4 ∉ listedWords ∧ 0xf ∉ listedWords ∧ 0xe ∈ listedWords := by decide
theorem witness_WordsAreComposedOfTheirFields : 0x0 ∈ listedWords ∧ 0xe ∈ listedWords := by decide
theorem witness_ComposedFieldsReadBack : ∀ f : CfgField, (fun _ => 0) f < 2 ^ fieldWidth f :=
  fun _ => Nat.two_pow_pos _
theorem witness_UnassignedBitsOfListedWords : (0xb ≤ 0xb ∧ 0xb ≤ 0xe) ∧ (0xb ≤ 0xe ∧ 0xe ≤ 0xe) ∧ 4 ≠ 5 := by decide
theorem witness_ExampleFieldsArePossibleValues : (cfgRow .pmbits).possible = some 63 := by decide
theorem witness_ArchitectureVariantOfWordOne : arch (cfgExample 0#32) = .la64 := by decide
theorem witness_AddressWidthsAreFieldPlusOne : (1 ≤ 1 ∧ 1 ≤ 256) ∧ (1 ≤ 256 ∧ 256 ≤ 256) := by decide
theorem witness_BaseFeatureBitsOfWordOne :
    CfgField.iocsrBrd ∈ [CfgField.pgmmu, .iocsr, .ual, .ri, .ep, .rplv, .hp, .iocsrBrd] := by decide
theorem witness_InstructionFeatureBitsOfWordTwo :
    CfgField.lam ∈ [CfgField.fp, .fpSp, .fpDp, .lsx, .lasx, .complex, .llftp, .lspw, .lam] := by decide
theorem witness_VersionFieldsDescribeOnlyOne : CfgField.pmver ∈ [CfgField.fpVer, .llftpVer, .pmver] := by decide
theorem witness_CoherenceBitsOfWordThree :
    CfgField.rva ∈ [CfgField.ccdma, .sfb, .llexc, .scdly, .lldbar, .itlbt, .icachet, .spwHpHf, .rva] := by decide
theorem witness_PerformanceMonitorsOfWordSix :
    (1 ≤ 16 ∧ 16 ≤ 16) ∧ (1 ≤ 64 ∧ 64 ≤ 64) ∧ (1 ≤ 1 ∧ 1 ≤ 16) := by decide
theorem witness_GeometryWordLayout :
    (cfgExample 0#32 0xa).getLsbD 0 = true ∧ (cfgExample 0#32 0xa).getLsbD 2 = true ∧
    (cfgExample 0#32 0xa).getLsbD 3 = true ∧ (cfgExample 0#32 0xa).getLsbD 10 = true ∧
    (0xb ≤ 0xb ∧ 0xb ≤ 0xe) ∧ CfgField.l3IuLine ∈ [CfgField.l1IuLine, .l1DLine, .l2IuLine, .l3IuLine] := by decide
theorem witness_ExampleCacheShapes :
    CfgField.l3IuWay ∈ [CfgField.l1IuWay, .l1DWay, .l2IuWay, .l3IuWay] ∧
    CfgField.l3IuIndex ∈ [CfgField.l1IuIndex, .l1DIndex, .l2IuIndex, .l3IuIndex] := by decide
theorem witness_AbsentCachesReportNothing : readField (cfgExample 0#32) (presenceField .l2D) = 0 := by decide

end Sys2Proof.Tests
end

section
/-! PROOFS. The listed configuration words and the fields they hold (10_state R16, R19). -/

namespace Sys2Proof.Machine

theorem mem_listedWords_iff (n : Nat) :
    n ∈ listedWords ↔ n ≤ 3 ∨ n = 5 ∨ n = 6 ∨ (10 ≤ n ∧ n ≤ 14) := by
  simp only [listedWords, List.mem_cons, List.not_mem_nil, or_false]
  omega

theorem fieldWord_mem_listedWords (f : CfgField) : fieldWord f ∈ listedWords := by
  cases f <;> decide

theorem mem_fieldsOfWord_fieldWord (f : CfgField) : f ∈ fieldsOfWord (fieldWord f) := by
  cases f <;> decide

/-- The table of words agrees with the table of fields: a word's fields are rows of that word. -/
theorem fieldWord_of_mem_fieldsOfWord (n : Nat) : ∀ f ∈ fieldsOfWord n, fieldWord f = n := by
  unfold fieldsOfWord
  split
  case h_12 => exact fun f hf => absurd hf List.not_mem_nil
  all_goals decide

theorem mem_fieldsOfWord_iff (f : CfgField) (n : Nat) : f ∈ fieldsOfWord n ↔ fieldWord f = n :=
  ⟨fieldWord_of_mem_fieldsOfWord n f, fun h => h ▸ mem_fieldsOfWord_fieldWord f⟩

/-- R19: a field of an unlisted word would be a field whose word is not listed. -/
theorem fieldsOfWord_eq_nil_of_not_listed (n : Nat) (hn : n ∉ listedWords) : fieldsOfWord n = [] := by
  refine List.eq_nil_iff_forall_not_mem.2 fun f hf => hn ?_
  have hword : fieldWord f = n := (mem_fieldsOfWord_iff f n).1 hf
  exact hword ▸ fieldWord_mem_listedWords f

/-- Settles O29: the eleven numbers are counted on the list, and the two tables, of fields and of words, agree. -/
theorem listedWordsAreEleven : Obligations.ListedWordsAreEleven := by
  unfold Obligations.ListedWordsAreEleven
  have hfield (f : CfgField) : fieldWord f ∈ listedWords ∧ f ∈ fieldsOfWord (fieldWord f) :=
    ⟨fieldWord_mem_listedWords f, mem_fieldsOfWord_fieldWord f⟩
  exact ⟨rfl, by decide, mem_listedWords_iff, hfield, fieldsOfWord_eq_nil_of_not_listed, rfl⟩

end Sys2Proof.Machine
end

section
/-! PROOFS. The effect of `CPUCFG` on every machine, its encoding as a number, and R45 (40_cpucfg R45 to R52). -/

namespace Sys2Proof.Machine

/-- On two registers of the machine `CPUCFG` always completes. -/
theorem cpucfgWith_next (c : Config) (s : State) {rd rj : Nat} (hrd : rd < 32) (hrj : rj < 32) :
    cpucfgWith c rd rj s =
      .next (advancePc (writeReg s rd (widen c.ext (c.cfg (readReg s rj).toNat)))) := by
  rw [cpucfgWith_eq, if_pos ⟨hrd, hrj⟩]

/-- The program counter advances modulo 2^64 (10_state R14). -/
theorem advancePc_pc_toNat (s : State) : (advancePc s).pc.toNat = (s.pc.toNat + 4) % 2 ^ 64 := by
  rw [advancePc_pc, BitVec.toNat_add, BitVec.toNat_ofNat]

/-- A field of `k` bits below the bits `x`: what it holds is added to `x` moved up by `k`. -/
theorem toNat_append_ofNat {m k r : Nat} (x : BitVec m) (hr : r < 2 ^ k) :
    (x ++ BitVec.ofNat k r).toNat = x.toNat * 2 ^ k + r := by
  rw [BitVec.toNat_append, BitVec.toNat_ofNat, Nat.mod_eq_of_lt hr, ← Nat.shiftLeft_add_eq_or_of_lt hr,
    Nat.shiftLeft_eq]

/-- The word of `CPUCFG` as a number: opcode 0x1B from bit 10 up, `rj` from bit 5, `rd` from bit 0 (30_encoding R38, R40). -/
theorem encode_cpucfg_toNat {rd rj : Nat} (hrd : rd < 32) (hrj : rj < 32) :
    (encode (.cpucfg rd rj)).toNat = 0x00006C00 + 32 * rj + rd := by
  have hopcode : cpucfgOpcode.toNat = 0x1B := rfl
  have hfields : (encode (.cpucfg rd rj)).toNat = (0x1B * 2 ^ 5 + rj) * 2 ^ 5 + rd := by
    rw [encode, toNat_append_ofNat _ hrd, toNat_append_ofNat _ hrj, hopcode]
  omega

/-- Word 0x1 of `CFG_EXAMPLE` under `sext`: its bit 31 is 0, so the upper half of the register is 0 (10_state R20, R48). -/
theorem widen_exampleConfig_word_one (cc5 : CfgWord) :
    widen (exampleConfig cc5).ext ((exampleConfig cc5).cfg 1) = 0x0000000003F2F2FE#64 := by
  change widen .sext 0x03F2F2FE#32 = 0x0000000003F2F2FE#64
  decide

/-- Every line of R45's pseudocode but the encoding: the registers, `pc`, memory and `END` after `CPUCFG`. -/
theorem cpucfgWith_effect (c : Config) (s : State) {rd rj : Nat} (hrd : rd < 32) (hrj : rj < 32) :
    ∃ t, cpucfgWith c rd rj s = .next t ∧
      (∀ r, readReg t r =
        if r = rd ∧ rd ≠ 0 then widen c.ext (c.cfg (readReg s rj).toNat) else readReg s r) ∧
      t.pc.toNat = (s.pc.toNat + 4) % 2 ^ 64 ∧ t.mem = s.mem ∧ t.endAt = s.endAt := by
  refine ⟨_, cpucfgWith_next c s hrd hrj, fun r => ?regs, ?pc, ?mem, ?endAt⟩
  case regs =>
    rw [readReg_advancePc, readReg_writeReg s rd r _ hrd]
    exact if_congr (and_congr_right fun h => by rw [h]) rfl rfl
  case pc => rw [advancePc_pc_toNat, writeReg_pc]
  case mem => rw [advancePc_mem, writeReg_mem]
  case endAt => rw [advancePc_endAt, writeReg_endAt]

/-- R45's worked example: word 0x1 of `CFG_EXAMPLE` read into `x[5]`. -/
theorem cpucfgWith_worked_example (cc5 : CfgWord) (s : State) (hx4 : readReg s 4 = 1#64)
    (hpc : s.pc = 0x1000#64) :
    ∃ t, cpucfgWith (exampleConfig cc5) 5 4 s = .next t ∧
      readReg t 5 = 0x0000000003F2F2FE#64 ∧ readReg t 4 = 1#64 ∧ t.pc = 0x1004#64 := by
  obtain ⟨t, ht, hregs, hpct, -, -⟩ :=
    cpucfgWith_effect (exampleConfig cc5) s (rd := 5) (rj := 4) (by decide) (by decide)
  refine ⟨t, ht, ?x5, ?x4, ?pc⟩
  case x5 =>
    rw [hregs 5, if_pos (by decide), hx4]
    exact widen_exampleConfig_word_one cc5
  case x4 => rw [hregs 4, if_neg (by decide), hx4]
  case pc => exact BitVec.eq_of_toNat_eq (by rw [hpct, hpc]; rfl)

/-- Settles O1: the effect on every machine, the two widenings being `CPUCFG_EXT`'s, the encoding and the worked example. -/
theorem cpucfgFollowsItsDefinition : Obligations.CpucfgFollowsItsDefinition := by
  unfold Obligations.CpucfgFollowsItsDefinition
  refine ⟨fun c rd rj s hrd hrj => ?_, exec_cpucfg, fun rd rj => encode_cpucfg_toNat, cpucfgWith_worked_example⟩
  obtain ⟨t, ht, hregs, hpc, hmem, hend⟩ := cpucfgWith_effect c s hrd hrj
  exact ⟨t, ht, hregs, hpc, fun a => by rw [hmem], hend⟩

end Sys2Proof.Machine
end

section
/-! PROOFS. What reading a configuration field answers: the number it is, its range, that every number of the range is some
configuration's, the bit a one-bit field is, and its value under `CFG_EXAMPLE` (00_scope R5, R6; 10_state R20). -/

namespace Sys2Proof.Machine

/-- R5 and R6 as arithmetic: a field is its word moved down by its lowest bit, cut to its width. -/
theorem readField_eq_div_mod (cfg : Nat → CfgWord) (f : CfgField) :
    readField cfg f = (cfg (fieldWord f)).toNat / 2 ^ fieldLo f % 2 ^ fieldWidth f := by
  rw [readField, fieldOf, bitsOf, BitVec.extractLsb_toNat, Nat.shiftRight_eq_div_pow, fieldWidth]

theorem readField_lt (cfg : Nat → CfgWord) (f : CfgField) : readField cfg f < 2 ^ fieldWidth f :=
  BitVec.isLt _

/-- Every field lies inside its 32-bit word. -/
theorem fieldLo_add_fieldWidth_le (f : CfgField) : fieldLo f + fieldWidth f ≤ 32 := by
  cases f <;> decide

/-- Every number that fits a field is what the field reads under some configuration: the number moved up to the field's
place. -/
theorem exists_readField_eq (f : CfgField) {v : Nat} (hv : v < 2 ^ fieldWidth f) : ∃ cfg, readField cfg f = v := by
  have hword : v * 2 ^ fieldLo f < 2 ^ 32 :=
    calc v * 2 ^ fieldLo f < 2 ^ fieldWidth f * 2 ^ fieldLo f := Nat.mul_lt_mul_of_pos_right hv (Nat.two_pow_pos _)
      _ = 2 ^ (fieldLo f + fieldWidth f) := by rw [Nat.mul_comm, Nat.pow_add]
      _ ≤ 2 ^ 32 := Nat.pow_le_pow_right Nat.two_pos (fieldLo_add_fieldWidth_le f)
  refine ⟨fun _ => BitVec.ofNat 32 (v * 2 ^ fieldLo f), ?_⟩
  rw [readField_eq_div_mod, BitVec.toNat_ofNat, Nat.mod_eq_of_lt hword, Nat.mul_div_cancel _ (Nat.two_pow_pos _),
    Nat.mod_eq_of_lt hv]

/-- The range of a quantity that is a field plus 1. -/
theorem readField_add_one_range (cfg : Nat → CfgWord) (f : CfgField) :
    1 ≤ readField cfg f + 1 ∧ readField cfg f + 1 ≤ 2 ^ fieldWidth f :=
  ⟨Nat.le_add_left _ _, readField_lt cfg f⟩

/-- Both ends of that range and everything between are attained. -/
theorem exists_readField_add_one_eq (f : CfgField) {n : Nat} (h1 : 1 ≤ n) (hn : n ≤ 2 ^ fieldWidth f) :
    ∃ cfg, readField cfg f + 1 = n := by
  obtain ⟨cfg, hcfg⟩ := exists_readField_eq f (v := n - 1) (by omega)
  exact ⟨cfg, by omega⟩

/-- A one-bit field reports its bit. -/
theorem reports_eq_getLsbD (cfg : Nat → CfgWord) (f : CfgField) (hwidth : fieldWidth f = 1) :
    reports cfg f = (cfg (fieldWord f)).getLsbD (fieldLo f) := by
  rw [reports, readField_eq_div_mod, hwidth, BitVec.getLsbD, Nat.testBit_eq_decide_div_mod_eq, Nat.pow_one, beq_eq_decide]

/-- The version a field stands for, by the field's place. -/
theorem versionOf_readField (cfg : Nat → CfgWord) (f : CfgField) :
    versionOf (readField cfg f) =
      if (cfg (fieldWord f)).toNat / 2 ^ fieldLo f % 2 ^ fieldWidth f = 1 then .initialVersion
      else .undescribed ((cfg (fieldWord f)).toNat / 2 ^ fieldLo f % 2 ^ fieldWidth f) := by
  rw [readField_eq_div_mod, versionOf]

/-- Of `CFG_EXAMPLE` only word 0x5 is the symbol `CC5`. -/
theorem cfgExample_of_ne_five (cc5 : CfgWord) {n : Nat} (hn : n ≠ 5) : cfgExample cc5 n = cfgExample 0#32 n := by
  unfold cfgExample
  split
  case h_5 => exact absurd rfl hn
  all_goals rfl

/-- The two fields of word 0x5 have no possible value (R92, R93). -/
theorem fieldWord_ne_five_of_possible {f : CfgField} (hf : (cfgRow f).possible.isSome) : fieldWord f ≠ 5 := by
  revert hf
  cases f <;> decide

theorem readField_cfgExample_zero (f : CfgField) :
    ∀ v ∈ (cfgRow f).possible, readField (cfgExample 0#32) f = v := by
  cases f <;> decide

/-- `CFG_EXAMPLE` is the Possible Value column (R20), whatever `CC5` is. -/
theorem readField_cfgExample (cc5 : CfgWord) {f : CfgField} {v : Nat} (hv : (cfgRow f).possible = some v) :
    readField (cfgExample cc5) f = v := by
  have hcc5 : readField (cfgExample cc5) f = readField (cfgExample 0#32) f := by
    rw [readField, readField, cfgExample_of_ne_five cc5 (fieldWord_ne_five_of_possible (hv ▸ rfl))]
  exact hcc5.trans (readField_cfgExample_zero f v hv)

end Sys2Proof.Machine
end

section
/-! PROOFS. Words 0x0 and 0x1: the processor identity, the architecture variant, the address widths and the features of the
base (41_cpucfg_words_core R53 to R66). -/

namespace Sys2Proof.Machine

/-- Settles O36: each width is an eight-bit field plus 1, and a field takes every value that fits it. -/
theorem addressWidthsAreFieldPlusOne : Obligations.AddressWidthsAreFieldPlusOne := by
  unfold Obligations.AddressWidthsAreFieldPlusOne
  refine ⟨fun cfg => ?range, fun n h1 hn => ?attained, rfl, rfl, fun cc5 => ?possible⟩
  case range =>
    obtain ⟨hpmin, hpmax⟩ := readField_add_one_range cfg .palen
    obtain ⟨hvmin, hvmax⟩ := readField_add_one_range cfg .valen
    have hphys := congrArg (· + 1) (readField_eq_div_mod cfg .palen)
    have hvirt := congrArg (· + 1) (readField_eq_div_mod cfg .valen)
    exact ⟨hphys, hpmin, hpmax, hvirt, hvmin, hvmax⟩
  case attained => exact ⟨exists_readField_add_one_eq .palen h1 hn, exists_readField_add_one_eq .valen h1 hn⟩
  case possible =>
    have hpalen : readField (cfgExample cc5) .palen = 47 := readField_cfgExample cc5 rfl
    have hvalen : readField (cfgExample cc5) .valen = 47 := readField_cfgExample cc5 rfl
    exact ⟨congrArg (· + 1) hpalen, congrArg (· + 1) hvalen⟩

/-- PRId, at bit 0 and 32 bits wide, loses nothing of the word. -/
theorem readField_prid (cfg : Nat → CfgWord) : readField cfg .prid = (cfg 0x0).toNat := by
  have hplace : readField cfg .prid = (cfg 0x0).toNat / 2 ^ 0 % 2 ^ 32 := readField_eq_div_mod cfg .prid
  rw [hplace, Nat.pow_zero, Nat.div_one, Nat.mod_eq_of_lt (cfg 0x0).isLt]

/-- Settles O34: the field is the whole word, so no bit is left unassigned. -/
theorem processorIdentityIsWordZero : Obligations.ProcessorIdentityIsWordZero := by
  unfold Obligations.ProcessorIdentityIsWordZero
  exact ⟨readField_prid, by decide, rfl, fun cc5 => readField_cfgExample cc5 rfl⟩

theorem arch_eq_archOf_mod_four (cfg : Nat → CfgWord) : arch cfg = archOf ((cfg 0x1).toNat % 4) := by
  have hplace : readField cfg .arch = (cfg 0x1).toNat / 2 ^ 0 % 4 := readField_eq_div_mod cfg .arch
  rw [arch, hplace, Nat.pow_zero, Nat.div_one]

/-- Only the value 2 stands for LA64. -/
theorem archOf_eq_la64_iff (v : Nat) : archOf v = .la64 ↔ v = 2 := by
  unfold archOf
  split
  case isTrue h => simp [h]
  case isFalse =>
    split
    case isTrue h => simp [h]
    case isFalse => simp

/-- Settles O35: `ARCH` is the word modulo 4; under LA64 that is 2, an even number. -/
theorem architectureVariantOfWordOne : Obligations.ArchitectureVariantOfWordOne := by
  unfold Obligations.ArchitectureVariantOfWordOne
  refine ⟨fun cfg => ⟨?variant, fun hla64 => ?even⟩, rfl, rfl⟩
  case variant =>
    rw [arch_eq_archOf_mod_four]
    match (cfg 0x1).toNat % 4 with
    | 0 | 1 | 2 | _ + 3 => rfl
  case even =>
    rw [arch_eq_archOf_mod_four, archOf_eq_la64_iff] at hla64
    rw [BitVec.getLsbD, Nat.testBit_zero, decide_eq_false_iff_not]
    omega

/-- Settles O37: the field is bit 26, and its possible value 0 is the level line. -/
theorem externalInterruptModeOfBit26 : Obligations.ExternalInterruptModeOfBit26 := by
  unfold Obligations.ExternalInterruptModeOfBit26
  refine ⟨fun cfg => ?bit, rfl, fun cc5 => ?possible⟩
  case bit =>
    have hbit : reports cfg .msgInt = (cfg 0x1).getLsbD 26 := reports_eq_getLsbD cfg .msgInt rfl
    rw [interruptMode, hbit]
  case possible =>
    have hzero : readField (cfgExample cc5) .msgInt = 0 := readField_cfgExample cc5 rfl
    rw [interruptMode, reports, hzero]
    rfl

/-- Settles O38: each report is the bit at the place of its one-bit field. -/
theorem baseFeatureBitsOfWordOne : Obligations.BaseFeatureBitsOfWordOne := by
  unfold Obligations.BaseFeatureBitsOfWordOne
  refine ⟨fun cfg => ?bits, by decide⟩
  case bits =>
    have hbit := reports_eq_getLsbD cfg
    exact ⟨hbit .pgmmu rfl, hbit .iocsr rfl, hbit .ual rfl, hbit .ri rfl, hbit .ep rfl, hbit .rplv rfl, hbit .hp rfl,
      hbit .iocsrBrd rfl⟩

end Sys2Proof.Machine
end

section
/-! PROOFS. Words 0x2, 0x3, 0x5 and 0x6: the instruction features, coherence, the timer's clock and the performance monitors
(41_cpucfg_words_core R67 to R99). -/

namespace Sys2Proof.Machine

/-- Settles O45: the two bits by their place; number and width are fields plus 1, of four bits and of six. -/
theorem performanceMonitorsOfWordSix : Obligations.PerformanceMonitorsOfWordSix := by
  unfold Obligations.PerformanceMonitorsOfWordSix
  refine ⟨fun cfg => ?range, fun n => exists_readField_add_one_eq .pmnum,
    fun n => exists_readField_add_one_eq .pmbits, rfl, rfl, rfl, rfl, fun cc5 => ?possible⟩
  case range =>
    obtain ⟨hnmin, hnmax⟩ := readField_add_one_range cfg .pmnum
    obtain ⟨hbmin, hbmax⟩ := readField_add_one_range cfg .pmbits
    have hnum := congrArg (· + 1) (readField_eq_div_mod cfg .pmnum)
    have hbits := congrArg (· + 1) (readField_eq_div_mod cfg .pmbits)
    exact ⟨reports_eq_getLsbD cfg .pmp rfl, reports_eq_getLsbD cfg .upm rfl, hnum, hnmin, hnmax, hbits, hbmin, hbmax⟩
  case possible =>
    have hpmnum : readField (cfgExample cc5) .pmnum = 3 := readField_cfgExample cc5 rfl
    have hpmbits : readField (cfgExample cc5) .pmbits = 63 := readField_cfgExample cc5 rfl
    exact ⟨congrArg (· + 1) hpmnum, congrArg (· + 1) hpmbits⟩

/-- Settles O39: each report is the bit at the place of its one-bit field. -/
theorem instructionFeatureBitsOfWordTwo : Obligations.InstructionFeatureBitsOfWordTwo := by
  unfold Obligations.InstructionFeatureBitsOfWordTwo
  refine ⟨fun cfg => ?bits, by decide⟩
  case bits =>
    have hbit := reports_eq_getLsbD cfg
    exact ⟨hbit .fp rfl, hbit .fpSp rfl, hbit .fpDp rfl, hbit .lsx rfl, hbit .lasx rfl, hbit .complex rfl,
      hbit .llftp rfl, hbit .lspw rfl, hbit .lam rfl⟩

/-- Settles O40: each version is read off its three-bit field. -/
theorem versionFieldsDescribeOnlyOne : Obligations.VersionFieldsDescribeOnlyOne := by
  unfold Obligations.VersionFieldsDescribeOnlyOne
  exact ⟨fun cfg => ⟨versionOf_readField cfg .fpVer, versionOf_readField cfg .llftpVer, versionOf_readField cfg .pmver⟩,
    by decide⟩

/-- Settles O41: each report is the bit at the place of its one-bit field. -/
theorem coherenceBitsOfWordThree : Obligations.CoherenceBitsOfWordThree := by
  unfold Obligations.CoherenceBitsOfWordThree
  refine ⟨fun cfg => ?bits, by decide⟩
  case bits =>
    have hbit := reports_eq_getLsbD cfg
    exact ⟨hbit .ccdma rfl, hbit .sfb rfl, hbit .llexc rfl, hbit .scdly rfl, hbit .lldbar rfl, hbit .itlbt rfl,
      hbit .icachet rfl, hbit .spwHpHf rfl, hbit .rva rfl⟩

/-- Settles O42: the number of levels is the three-bit field with nothing added. -/
theorem pageWalkLevelsIsTheFieldItself : Obligations.PageWalkLevelsIsTheFieldItself := by
  unfold Obligations.PageWalkLevelsIsTheFieldItself
  exact ⟨fun cfg => ⟨readField_eq_div_mod cfg .spwLvl, rfl⟩, rfl, rfl, fun cc5 => readField_cfgExample cc5 rfl⟩

/-- `CC_MUL` is the low half of the word. -/
theorem clockReport_multiplier (cfg : Nat → CfgWord) :
    (clockReport cfg).multiplier = (cfg 0x5).toNat % 2 ^ 16 := by
  have hplace : (clockReport cfg).multiplier = (cfg 0x5).toNat / 2 ^ 0 % 2 ^ 16 := readField_eq_div_mod cfg .ccMul
  rw [hplace, Nat.pow_zero, Nat.div_one]

/-- `CC_DIV` is the high half: nothing of the word lies above it. -/
theorem clockReport_divider (cfg : Nat → CfgWord) : (clockReport cfg).divider = (cfg 0x5).toNat / 2 ^ 16 := by
  have hplace : (clockReport cfg).divider = (cfg 0x5).toNat / 2 ^ 16 % 2 ^ 16 := readField_eq_div_mod cfg .ccDiv
  have hhigh : (cfg 0x5).toNat / 2 ^ 16 < 2 ^ 16 := Nat.div_lt_of_lt_mul (cfg 0x5).isLt
  rw [hplace, Nat.mod_eq_of_lt hhigh]

/-- Settles O44: the coefficients are the quotient and the remainder of the word by 2^16. -/
theorem clockCoefficientsOfWordFive : Obligations.ClockCoefficientsOfWordFive := by
  unfold Obligations.ClockCoefficientsOfWordFive
  refine ⟨fun cfg => ⟨clockReport_multiplier cfg, clockReport_divider cfg, ?_⟩, rfl, rfl, rfl, rfl⟩
  rw [clockReport_multiplier, clockReport_divider, Nat.div_add_mod']

end Sys2Proof.Machine
end

section
/-! PROOFS. Words 0xa to 0xe: the presence and the relations of the caches, and their geometry (42_cpucfg_words_cache R101 to
R130). -/

namespace Sys2Proof.Machine

/-- Every presence bit is a bit of word 0xa. -/
theorem reports_presenceField (cfg : Nat → CfgWord) (c : CacheName) :
    reports cfg (presenceField c) = (cfg 0xa).getLsbD (fieldLo (presenceField c)) := by
  cases c <;> exact reports_eq_getLsbD cfg _ rfl

/-! ### What a presence bit decides -/

section
variable {cfg : Nat → CfgWord} {c : CacheName}

theorem cacheGeometry_of_present (hpresent : reports cfg (presenceField c) = true) {n : Nat}
    (hword : geometryWord c = some n) : cacheGeometry cfg c = some (geometryOf (cfg n)) := by
  rw [cacheGeometry, if_pos hpresent, hword, Option.map_some]

/-- R118: without a geometry word a cache has no geometry, present or not. -/
theorem cacheGeometry_eq_none_of_no_word (hword : geometryWord c = none) : cacheGeometry cfg c = none := by
  rw [cacheGeometry, hword, Option.map_none, ite_self]

theorem cacheRelations_of_present (hpresent : reports cfg (presenceField c) = true) {r : CacheRelations}
    (hunified : (unifyField c).map (reports cfg) = r.unified)
    (hperCore : (perCoreField c).map (reports cfg) = r.perCore)
    (hinclusive : (inclusiveField c).map (reports cfg) = r.inclusive) : cacheRelations cfg c = some r := by
  rw [cacheRelations, if_pos hpresent, hunified, hperCore, hinclusive]

theorem cacheRelations_of_absent (habsent : reports cfg (presenceField c) = false) : cacheRelations cfg c = none := by
  rw [cacheRelations, habsent, if_neg Bool.false_ne_true]

end

/-! ### What is read under `CFG_EXAMPLE` -/

section
variable (cc5 : CfgWord) {f : CfgField}

theorem reports_cfgExample_true (hf : (cfgRow f).possible = some 1) : reports (cfgExample cc5) f = true := by
  rw [reports, readField_cfgExample cc5 hf, beq_self_eq_true]

theorem reports_cfgExample_false (hf : (cfgRow f).possible = some 0) : reports (cfgExample cc5) f = false := by
  rw [reports, readField_cfgExample cc5 hf]
  rfl

/-- The geometry of a cache that `CFG_EXAMPLE` has, whose word is not `CC5`. -/
theorem cacheGeometry_cfgExample {c : CacheName} {n : Nat} {shape : CacheGeometry}
    (hpresent : (cfgRow (presenceField c)).possible = some 1) (hword : geometryWord c = some n)
    (hn : n ≠ 5) (hshape : geometryOf (cfgExample 0#32 n) = shape) :
    cacheGeometry (cfgExample cc5) c = some shape := by
  rw [cacheGeometry_of_present (reports_cfgExample_true cc5 hpresent) hword, cfgExample_of_ne_five cc5 hn,
    hshape]

end

/-! ### The geometry words -/

/-- The four parts of a geometry word, from bit 31 down, are the word: each stands where the one below it ends. -/
theorem geometryWord_parts_append (g : CfgWord) :
    (g.extractLsb 31 31 ++ g.extractLsb 30 24 ++ g.extractLsb 23 16 ++ g.extractLsb 15 0 : BitVec 32) = g := by
  change (g.extractLsb' 31 1 ++ g.extractLsb' 24 7 ++ g.extractLsb' 16 8 ++ g.extractLsb' 0 16 : BitVec 32) = g
  rw [BitVec.extractLsb'_append_extractLsb'_eq_extractLsb' (show 31 = 24 + 7 from rfl),
    BitVec.extractLsb'_append_extractLsb'_eq_extractLsb' (show 24 = 16 + 8 from rfl),
    BitVec.extractLsb'_append_extractLsb'_eq_extractLsb' (show 16 = 0 + 16 from rfl)]
  exact BitVec.extractLsb'_eq_self

section
variable (cfg : Nat → CfgWord) (f : CfgField)

/-- The ways are the field of bits 15:0 plus 1. -/
theorem geometryOf_ways_eq_readField (hhi : fieldHi f = 15) (hlo : fieldLo f = 0) :
    (geometryOf (cfg (fieldWord f))).ways = readField cfg f + 1 := by
  rw [readField, fieldOf, hhi, hlo, geometryOf]

/-- The sets are 2 to the power of the field of bits 23:16. -/
theorem geometryOf_sets_eq_readField (hhi : fieldHi f = 23) (hlo : fieldLo f = 16) :
    (geometryOf (cfg (fieldWord f))).sets = 2 ^ readField cfg f := by
  rw [readField, fieldOf, hhi, hlo, geometryOf]

end

/-- Bit 31 alone has no field in a geometry word. -/
theorem assignedMask_geometryWord (n : Nat) (hmin : 0xb ≤ n) (hmax : n ≤ 0xe) : assignedMask n = 0x7FFFFFFF#32 := by
  interval_cases n <;> decide

/-- Settles O48: the parts of the word side by side, and each geometry read where the presence bit is set. -/
theorem geometryWordLayout : Obligations.GeometryWordLayout := by
  unfold Obligations.GeometryWordLayout
  exact ⟨fun g => ⟨geometryWord_parts_append g, rfl, rfl, rfl⟩,
    fun cfg hbit => cacheGeometry_of_present ((reports_presenceField cfg .l1Iu).trans hbit) rfl,
    fun cfg hbit => cacheGeometry_of_present ((reports_presenceField cfg .l1D).trans hbit) rfl,
    fun cfg hbit => cacheGeometry_of_present ((reports_presenceField cfg .l2Iu).trans hbit) rfl,
    fun cfg hbit => cacheGeometry_of_present ((reports_presenceField cfg .l3Iu).trans hbit) rfl,
    fun cfg => ⟨cacheGeometry_eq_none_of_no_word rfl, cacheGeometry_eq_none_of_no_word rfl⟩,
    assignedMask_geometryWord, by decide⟩

/-- Settles O46: each report is the bit at the place of its one-bit field; the relations are those of the possible values. -/
theorem firstAndSecondLevelCacheBits : Obligations.FirstAndSecondLevelCacheBits := by
  unfold Obligations.FirstAndSecondLevelCacheBits
  refine ⟨fun cfg => ?bits, rfl, fun cc5 => ⟨rfl, rfl, rfl, ?l1Iu, ?l2Iu, ?l2D⟩⟩
  case bits =>
    have hbit := reports_eq_getLsbD cfg
    exact ⟨hbit .l1IuPresent rfl, congrArg some (hbit .l1IuUnify rfl), hbit .l1DPresent rfl, hbit .l2IuPresent rfl,
      congrArg some (hbit .l2IuUnify rfl), congrArg some (hbit .l2IuPrivate rfl),
      congrArg some (hbit .l2IuInclusive rfl), hbit .l2DPresent rfl, congrArg some (hbit .l2DPrivate rfl),
      congrArg some (hbit .l2DInclusive rfl)⟩
  case l1Iu =>
    have hunify : reports (cfgExample cc5) .l1IuUnify = false := reports_cfgExample_false cc5 rfl
    exact cacheRelations_of_present (reports_cfgExample_true cc5 rfl) (congrArg some hunify) rfl rfl
  case l2Iu =>
    have hunify : reports (cfgExample cc5) .l2IuUnify = true := reports_cfgExample_true cc5 rfl
    have hperCore : reports (cfgExample cc5) .l2IuPrivate = true := reports_cfgExample_true cc5 rfl
    have hinclusive : reports (cfgExample cc5) .l2IuInclusive = false := reports_cfgExample_false cc5 rfl
    exact cacheRelations_of_present (reports_cfgExample_true cc5 rfl) (congrArg some hunify) (congrArg some hperCore)
      (congrArg some hinclusive)
  case l2D => exact cacheRelations_of_absent (reports_cfgExample_false cc5 rfl)

/-- Settles O47: as for the levels below, with the bits 10 to 16. -/
theorem thirdLevelCacheBits : Obligations.ThirdLevelCacheBits := by
  unfold Obligations.ThirdLevelCacheBits
  refine ⟨fun cfg => ?bits, rfl, fun cc5 => ⟨rfl, ?l3Iu, ?l3D⟩⟩
  case bits =>
    have hbit := reports_eq_getLsbD cfg
    exact ⟨hbit .l3IuPresent rfl, congrArg some (hbit .l3IuUnify rfl), congrArg some (hbit .l3IuPrivate rfl),
      congrArg some (hbit .l3IuInclusive rfl), hbit .l3DPresent rfl, congrArg some (hbit .l3DPrivate rfl),
      congrArg some (hbit .l3DInclusive rfl)⟩
  case l3Iu =>
    have hunify : reports (cfgExample cc5) .l3IuUnify = true := reports_cfgExample_true cc5 rfl
    have hperCore : reports (cfgExample cc5) .l3IuPrivate = false := reports_cfgExample_false cc5 rfl
    have hinclusive : reports (cfgExample cc5) .l3IuInclusive = true := reports_cfgExample_true cc5 rfl
    exact cacheRelations_of_present (reports_cfgExample_true cc5 rfl) (congrArg some hunify) (congrArg some hperCore)
      (congrArg some hinclusive)
  case l3D => exact cacheRelations_of_absent (reports_cfgExample_false cc5 rfl)

/-- Settles O49: ways and sets are the fields at those places; in `CFG_EXAMPLE` the four caches are present. -/
theorem exampleCacheShapes : Obligations.ExampleCacheShapes := by
  unfold Obligations.ExampleCacheShapes
  refine ⟨by decide, by decide, fun cfg => ?meaning, fun cc5 => ?shapes⟩
  case meaning =>
    have hways := geometryOf_ways_eq_readField cfg
    have hsets := geometryOf_sets_eq_readField cfg
    exact ⟨hways .l1IuWay rfl rfl, hways .l1DWay rfl rfl, hways .l2IuWay rfl rfl, hways .l3IuWay rfl rfl,
      hsets .l1IuIndex rfl rfl, hsets .l1DIndex rfl rfl, hsets .l2IuIndex rfl rfl, hsets .l3IuIndex rfl rfl⟩
  case shapes =>
    exact ⟨cacheGeometry_cfgExample cc5 rfl rfl (by decide) rfl, cacheGeometry_cfgExample cc5 rfl rfl (by decide) rfl,
      cacheGeometry_cfgExample cc5 rfl rfl (by decide) rfl, cacheGeometry_cfgExample cc5 rfl rfl (by decide) rfl⟩

end Sys2Proof.Machine
end

section
/-! PROOFS. The decoder and the encoder: which words are `CPUCFG`, as numbers, and that the two undo each other (30_encoding
R37 to R42; 20_memory R27). -/

namespace Sys2Proof.Machine

/-- A mask that clears the low `k` bits rounds down to a multiple of 2^k. -/
theorem toNat_and_allOnes_shiftLeft {n : Nat} (x : BitVec n) (k : Nat) :
    (x &&& BitVec.allOnes n <<< k).toNat = x.toNat / 2 ^ k * 2 ^ k := by
  have hle : x.toNat / 2 ^ k * 2 ^ k ≤ x.toNat := Nat.div_mul_le_self x.toNat (2 ^ k)
  rw [← BitVec.shiftLeft_ushiftRight, BitVec.toNat_shiftLeft, BitVec.toNat_ushiftRight, Nat.shiftLeft_eq,
    Nat.shiftRight_eq_div_pow, Nat.mod_eq_of_lt (hle.trans_lt x.isLt)]

/-- The mask of the row clears the ten operand bits, so a word matches when what lies above them is the opcode (R40). -/
theorem masked_eq_cpucfgMatch_iff (w : InsnWord) : w &&& cpucfgMask = cpucfgMatch ↔ w.toNat / 2 ^ 10 = 0x1B := by
  have hmask : cpucfgMask = BitVec.allOnes 32 <<< 10 := by decide
  have hcleared : (w &&& cpucfgMask).toNat = w.toNat / 2 ^ 10 * 2 ^ 10 := by
    rw [hmask, toNat_and_allOnes_shiftLeft]
  have hmatch : cpucfgMatch.toNat = 0x1B * 2 ^ 10 := rfl
  rw [← BitVec.toNat_inj, hcleared, hmatch]
  omega

theorem fieldRd_eq_mod (w : InsnWord) : fieldRd w = w.toNat % 32 := by
  rw [fieldRd, BitVec.extractLsb_toNat, Nat.shiftRight_zero]

theorem fieldRj_eq_div_mod (w : InsnWord) : fieldRj w = w.toNat / 32 % 32 := by
  rw [fieldRj, BitVec.extractLsb_toNat, Nat.shiftRight_eq_div_pow]

/-- Decoding a word as arithmetic on its number (R38, R40). -/
theorem decodeWord_eq (w : InsnWord) :
    decodeWord w =
      if w.toNat / 2 ^ 10 = 0x1B then some (.cpucfg (w.toNat % 32) (w.toNat / 32 % 32)) else none := by
  rw [decodeWord, fieldRd_eq_mod, fieldRj_eq_div_mod]
  exact if_congr (masked_eq_cpucfgMatch_iff w) rfl rfl

theorem decodeWord_eq_none_iff (w : InsnWord) : decodeWord w = none ↔ w.toNat / 2 ^ 10 ≠ 0x1B := by
  rw [decodeWord_eq, ite_eq_right_iff]
  exact forall_congr' fun _ => iff_false_intro (Option.some_ne_none _)

/-- The one word that decodes to each `CPUCFG` of two registers. -/
theorem decodeWord_eq_some_iff (w : InsnWord) (rd rj : Nat) :
    decodeWord w = some (.cpucfg rd rj) ↔ rd < 32 ∧ rj < 32 ∧ w.toNat = 0x6C00 + 32 * rj + rd := by
  rw [decodeWord_eq]
  split
  case isTrue h =>
    rw [Option.some_inj, Instr.cpucfg.injEq]
    omega
  case isFalse h =>
    refine iff_of_false (Option.some_ne_none _).symm ?_
    omega

/-- Settles O15: the words with the opcode above the operand bits are one range of 1024. -/
theorem acceptedWordsAreOneRange : Obligations.AcceptedWordsAreOneRange := by
  unfold Obligations.AcceptedWordsAreOneRange
  refine fun w => ⟨decodeWord_eq_some_iff w, (decodeWord_eq_none_iff w).trans ?_⟩
  omega

theorem decodeWord_encode {i : Instr} (hi : i.wf = true) : decodeWord (encode i) = some i := by
  cases i with
  | cpucfg rd rj =>
    obtain ⟨hrd, hrj⟩ := (wf_cpucfg_iff rd rj).1 hi
    exact (decodeWord_eq_some_iff _ rd rj).2 ⟨hrd, hrj, encode_cpucfg_toNat hrd hrj⟩

theorem wf_of_decodeWord {w : InsnWord} {i : Instr} (h : decodeWord w = some i) : i.wf = true := by
  cases i with
  | cpucfg rd rj =>
    obtain ⟨hrd, hrj, -⟩ := (decodeWord_eq_some_iff w rd rj).1 h
    exact (wf_cpucfg_iff rd rj).2 ⟨hrd, hrj⟩

theorem encode_of_decodeWord {w : InsnWord} {i : Instr} (h : decodeWord w = some i) : encode i = w := by
  cases i with
  | cpucfg rd rj =>
    obtain ⟨hrd, hrj, hw⟩ := (decodeWord_eq_some_iff w rd rj).1 h
    exact BitVec.eq_of_toNat_eq ((encode_cpucfg_toNat hrd hrj).trans hw.symm)

/-- Settles O14: the instruction's encoding and the word are the same number. -/
theorem encodeOfDecodeIsTheWord : Obligations.EncodeOfDecodeIsTheWord := by
  unfold Obligations.EncodeOfDecodeIsTheWord
  exact fun w i h => ⟨wf_of_decodeWord h, encode_of_decodeWord h⟩

/-! ### Bytes -/

/-- Four bytes or more decode to an instruction exactly when their word does, and what follows is handed back (R42). -/
theorem decode_cons_eq_instr_iff (b0 b1 b2 b3 : Byte) (rest rest' : List Byte) (i : Instr) :
    decode (b0 :: b1 :: b2 :: b3 :: rest) = .instr i rest' ↔
      decodeWord (wordOfBytes b0 b1 b2 b3) = some i ∧ rest = rest' := by
  rw [decode]
  cases decodeWord (wordOfBytes b0 b1 b2 b3) with
  | none => exact iff_of_false nofun fun h => nomatch h.1
  | some j => rw [Decoded.instr.injEq, Option.some_inj]

theorem decode_bytesOfWord {w : InsnWord} {i : Instr} (h : decodeWord w = some i) (rest : List Byte) :
    decode (bytesOfWord w ++ rest) = .instr i rest := by
  refine (decode_cons_eq_instr_iff _ _ _ _ rest rest i).2 ⟨?_, rfl⟩
  rw [wordOfBytes_byteOfWord, h]

/-- Settles O13: the bytes are those of the instruction's word, which decodes to the instruction. -/
theorem decodeOfEncodeIsTheInstruction : Obligations.DecodeOfEncodeIsTheInstruction := by
  unfold Obligations.DecodeOfEncodeIsTheInstruction
  exact fun i rest hi => decode_bytesOfWord (decodeWord_encode hi) rest

/-- What the decoder reads from a numbered word is what it reads from the word. -/
theorem decodeTableWord_eq (nbits w : Nat) : decodeTableWord nbits w = decodeWord (tableWord nbits w) := by
  rw [decodeTableWord, bytesOfWord, decode, wordOfBytes_byteOfWord]
  cases decodeWord (tableWord nbits w) <;> rfl

/-- Settles O16: closed facts, by running the decoder. -/
theorem knownWordsDecode : Obligations.KnownWordsDecode := by
  unfold Obligations.KnownWordsDecode
  decide

end Sys2Proof.Machine
end

section
/-! PROOFS. The two widenings of a configuration word (40_cpucfg R48, decision D10). -/

namespace Sys2Proof.Machine

/-- Bits 63:32 of a widened word: copies of its bit 31, or zeros. -/
def upperHalf : CpucfgExt → CfgWord → BitVec 32
  | .sext, w => if w.getLsbD 31 then 0xFFFFFFFF#32 else 0x00000000#32
  | .zext, _ => 0x00000000#32

theorem widen_eq_upperHalf_append (e : CpucfgExt) (w : CfgWord) : widen e w = upperHalf e w ++ w := by
  cases e with
  | sext =>
    have hmsb : w.getLsbD 31 = w.msb := (BitVec.msb_eq_getLsbD_last w).symm
    rw [upperHalf, hmsb]
    exact BitVec.signExtend_eq_append_of_le (by decide)
  | zext => exact BitVec.setWidth_eq_append (by decide)

theorem setWidth_widen (e : CpucfgExt) (w : CfgWord) : (widen e w).setWidth 32 = w := by
  rw [widen_eq_upperHalf_append, BitVec.setWidth_append_eq_right]

theorem extractLsb_widen (e : CpucfgExt) (w : CfgWord) : (widen e w).extractLsb 63 32 = upperHalf e w := by
  rw [widen_eq_upperHalf_append]
  exact BitVec.extractLsb'_append_eq_left

theorem getLsbD_widen_sext {k : Nat} (w : CfgWord) (hmin : 32 ≤ k) (hmax : k < 64) :
    (widen .sext w).getLsbD k = w.getLsbD 31 := by
  rw [widen, BitVec.getLsbD_signExtend, if_neg (by omega), BitVec.msb_eq_getLsbD_last, decide_eq_true hmax,
    Bool.true_and]

theorem getLsbD_widen_zext {k : Nat} (w : CfgWord) (hmin : 32 ≤ k) : (widen .zext w).getLsbD k = false := by
  rw [widen, BitVec.zeroExtend_eq_setWidth, BitVec.getLsbD_setWidth, BitVec.getLsbD_of_ge w k hmin, Bool.and_false]

/-- The widenings differ in bit 32 where bit 31 is set, and nowhere where it is clear. -/
theorem widen_sext_eq_zext_iff (w : CfgWord) : widen .sext w = widen .zext w ↔ w.getLsbD 31 = false := by
  constructor
  · intro h
    rw [← getLsbD_widen_sext w (k := 32) (by decide) (by decide), h, getLsbD_widen_zext w (by decide)]
  · intro h
    exact BitVec.signExtend_eq_setWidth_of_msb_false ((BitVec.msb_eq_getLsbD_last w).trans h)

/-- Settles O6: the lower half, the upper half bit by bit, and the comparison. -/
theorem wideningChoicesAgreeBelowBit31 : Obligations.WideningChoicesAgreeBelowBit31 := by
  unfold Obligations.WideningChoicesAgreeBelowBit31
  exact fun w => ⟨fun e => setWidth_widen e w,
    fun k hmin hmax => ⟨getLsbD_widen_sext w hmin hmax, getLsbD_widen_zext w hmin⟩, widen_sext_eq_zext_iff w⟩

end Sys2Proof.Machine
end

section
/-! PROOFS. What `CPUCFG` does in every state, on the chip at hand and under `CFG_EXAMPLE`: the register written, its frame, and
what it depends on (40_cpucfg R45 to R52). -/

namespace Sys2Proof.Machine

/-! ### The state `CPUCFG` leaves -/

/-- The state after `CPUCFG rd, rj` on a machine whose parameters are `c`. -/
def afterCpucfg (c : Config) (rd rj : Nat) (s : State) : State :=
  advancePc (writeReg s rd (widen c.ext (c.cfg (readReg s rj).toNat)))

theorem writeReg_zero (s : State) (v : Word) : writeReg s 0 v = s := rfl

/-- No write reaches the storage behind `r0`. -/
theorem writeReg_regs_zero (s : State) (r : Nat) (v : Word) : (writeReg s r v).regs[0] = s.regs[0] := by
  by_cases hr : r = 0
  · rw [hr, writeReg_zero]
  · rw [writeReg, if_neg hr, Vector.getElem_setIfInBounds_ne _ hr]

section
variable (c : Config) {rd rj : Nat} (s : State)

theorem cpucfgWith_eq_next_afterCpucfg (hrd : rd < 32) (hrj : rj < 32) :
    cpucfgWith c rd rj s = .next (afterCpucfg c rd rj s) :=
  cpucfgWith_next c s hrd hrj

@[simp] theorem afterCpucfg_pc : (afterCpucfg c rd rj s).pc = s.pc + 4#64 := by
  rw [afterCpucfg, advancePc_pc, writeReg_pc]

@[simp] theorem afterCpucfg_mem : (afterCpucfg c rd rj s).mem = s.mem := by
  rw [afterCpucfg, advancePc_mem, writeReg_mem]

@[simp] theorem afterCpucfg_endAt : (afterCpucfg c rd rj s).endAt = s.endAt := by
  rw [afterCpucfg, advancePc_endAt, writeReg_endAt]

@[simp] theorem afterCpucfg_regs_zero : (afterCpucfg c rd rj s).regs[0] = s.regs[0] :=
  writeReg_regs_zero s rd _

theorem readReg_afterCpucfg_same (hrd : rd < 32) (hrd0 : rd ≠ 0) :
    readReg (afterCpucfg c rd rj s) rd = widen c.ext (c.cfg (readReg s rj).toNat) := by
  rw [afterCpucfg, readReg_advancePc, readReg_writeReg s rd rd _ hrd, if_pos ⟨rfl, hrd0⟩]

theorem readReg_afterCpucfg_of_ne (hrd : rd < 32) {r : Nat} (hr : r ≠ rd) :
    readReg (afterCpucfg c rd rj s) r = readReg s r := by
  rw [afterCpucfg, readReg_advancePc, readReg_writeReg s rd r _ hrd, if_neg fun h => hr h.1]

theorem afterCpucfg_zero : afterCpucfg c 0 rj s = { s with pc := s.pc + 4#64 } := rfl

/-- `END` depends on the address named and on `TEXT` alone. -/
theorem endOf_congr {s t : State} (hend : t.endAt = s.endAt) (hmem : t.mem = s.mem) : endOf t = endOf s := by
  rw [endOf, endOf, hend, hmem]

@[simp] theorem endOf_afterCpucfg : endOf (afterCpucfg c rd rj s) = endOf s :=
  endOf_congr (afterCpucfg_endAt c s) (afterCpucfg_mem c s)

end

theorem exec_cpucfg_eq_next (s : State) {rd rj : Nat} (hrd : rd < 32) (hrj : rj < 32) :
    exec (.cpucfg rd rj) s = .next (afterCpucfg Config.chip rd rj s) :=
  cpucfgWith_eq_next_afterCpucfg Config.chip s hrd hrj

/-- `exec_next` for a `CPUCFG` at hand. -/
theorem exec_cpucfg_next {rd rj : Nat} {s t : State} (h : exec (.cpucfg rd rj) s = .next t) :
    rd < 32 ∧ rj < 32 ∧ t = afterCpucfg Config.chip rd rj s := by
  obtain ⟨rd', rj', hi, hrd, hrj, ht⟩ := exec_next _ s t h
  obtain ⟨rfl, rfl⟩ := Instr.cpucfg.inj hi
  exact ⟨hrd, hrj, ht⟩

/-! ### What it does in every state -/

/-- Settles O2: the two halves are those of the widened word. -/
theorem cpucfgOnTheChipCompletes : Obligations.CpucfgOnTheChipCompletes := by
  unfold Obligations.CpucfgOnTheChipCompletes
  intro rd rj s hrd hrj
  refine ⟨_, exec_cpucfg_eq_next s hrd hrj, afterCpucfg_pc _ s, fun hrd0 => ?_⟩
  rw [readReg_afterCpucfg_same _ s hrd hrd0, setWidth_widen, extractLsb_widen]
  refine ⟨rfl, ?_⟩
  cases Config.chip.ext <;> rfl

/-- Settles O3: the state after `CPUCFG` differs from the one before in `rd` and `pc` only. -/
theorem cpucfgFrame : Obligations.CpucfgFrame := by
  unfold Obligations.CpucfgFrame
  intro rd rj s t h
  obtain ⟨hrd, -, rfl⟩ := exec_cpucfg_next h
  have hmem := afterCpucfg_mem Config.chip (rd := rd) (rj := rj) s
  exact ⟨fun r hr => readReg_afterCpucfg_of_ne _ s hrd hr, readReg_zero _, fun a => by rw [hmem], hmem,
    afterCpucfg_endAt _ s, endOf_afterCpucfg _ s⟩

/-- Settles O4: the write to `r0` is discarded. -/
theorem cpucfgToR0OnlyAdvancesPc : Obligations.CpucfgToR0OnlyAdvancesPc := by
  unfold Obligations.CpucfgToR0OnlyAdvancesPc
  intro rj s hrj
  rw [exec_cpucfg_eq_next s (by decide) hrj, afterCpucfg_zero]

/-- Settles O5: the second `CPUCFG` reads `rd` in the state the first one leaves. -/
theorem cpucfgResultFeedsTheNextCpucfg : Obligations.CpucfgResultFeedsTheNextCpucfg := by
  unfold Obligations.CpucfgResultFeedsTheNextCpucfg
  intro c rd rj rd2 s hrd hrj hrd2 hrd0 hrd20
  have hfirst := readReg_afterCpucfg_same c (rj := rj) s hrd hrd0
  refine ⟨afterCpucfg c rd rj s, afterCpucfg c rd2 rd (afterCpucfg c rd rj s),
    cpucfgWith_eq_next_afterCpucfg c s hrd hrj, cpucfgWith_eq_next_afterCpucfg c _ hrd2 hrd, hfirst, ?second, ?pc⟩
  case second => rw [readReg_afterCpucfg_same c _ hrd2 hrd20, hfirst]
  case pc => rw [afterCpucfg_pc, afterCpucfg_pc, BitVec.add_assoc]; rfl

/-- Of the configuration `CPUCFG` uses the widening and one word (40_cpucfg R45). -/
theorem afterCpucfg_congr {c c' : Config} {rd rj : Nat} (s : State) (hext : c.ext = c'.ext)
    (hword : c.cfg (readReg s rj).toNat = c'.cfg (readReg s rj).toNat) :
    afterCpucfg c rd rj s = afterCpucfg c' rd rj s := by
  rw [afterCpucfg, afterCpucfg, hext, hword]

/-- A number below 2^k is its own low `k` bits. -/
theorem cfgOfLowBits_of_lt {k n : Nat} (g : Nat → CfgWord) (hn : n < 2 ^ k) : cfgOfLowBits k g n = g n := by
  rw [cfgOfLowBits, Nat.mod_eq_of_lt hn]

/-- Settles O7: both configurations answer the same word for the number in `rj`. -/
theorem narrowIndexAgreesOnSmallNumbers : Obligations.NarrowIndexAgreesOnSmallNumbers := by
  unfold Obligations.NarrowIndexAgreesOnSmallNumbers
  intro k c rd rj s hrd hrj hsmall
  refine ⟨_, ?_, cpucfgWith_eq_next_afterCpucfg c s hrd hrj⟩
  rw [cpucfgWith_eq_next_afterCpucfg _ s hrd hrj]
  exact congrArg Host.Outcome.next (afterCpucfg_congr s rfl (cfgOfLowBits_of_lt c.cfg hsmall))

/-- Settles O9: the value written is a function of `x[rj]`. -/
theorem cpucfgDependsOnlyOnRj : Obligations.CpucfgDependsOnlyOnRj := by
  unfold Obligations.CpucfgDependsOnlyOnRj
  intro rd rj s s' hrd hrj hsame
  refine ⟨_, _, exec_cpucfg_eq_next s hrd hrj, exec_cpucfg_eq_next s' hrd hrj, ?_⟩
  by_cases hrd0 : rd = 0
  · rw [hrd0, readReg_zero, readReg_zero]
  · rw [readReg_afterCpucfg_same _ s hrd hrd0, readReg_afterCpucfg_same _ s' hrd hrd0, hsame]

theorem exec_next_of_wf {i : Instr} (s : State) (hi : i.wf = true) : ∃ t, exec i s = .next t := by
  cases i with
  | cpucfg rd rj =>
    obtain ⟨hrd, hrj⟩ := (wf_cpucfg_iff rd rj).1 hi
    exact ⟨_, exec_cpucfg_eq_next s hrd hrj⟩

/-- Settles O10: being well-formed is all that an instruction needs. -/
theorem everyInstructionIsLegalEverywhere : Obligations.EveryInstructionIsLegalEverywhere := by
  unfold Obligations.EveryInstructionIsLegalEverywhere
  exact fun i s hi => exec_next_of_wf s hi

/-- Settles O11: the check of the operands fails. -/
theorem noSuchRegisterIsRefused : Obligations.NoSuchRegisterIsRefused := by
  unfold Obligations.NoSuchRegisterIsRefused
  intro rd rj s hlarge
  rw [exec_cpucfg, cpucfgWith_eq, if_neg (by omega)]

/-! ### Configuration words read into a register -/

/-- A word number that is not listed has word 0 in `CFG_EXAMPLE` (10_state R20). -/
theorem cfgExample_of_not_listed (cc5 : CfgWord) {n : Nat} (hn : n ∉ listedWords) : cfgExample cc5 n = 0#32 := by
  unfold cfgExample
  split
  case h_12 => rfl
  all_goals exact absurd (by decide) hn

/-- Settles O8: each number selects its word of `CFG_EXAMPLE`, which `sext` widens. -/
theorem cpucfgReturnsTheExampleWords : Obligations.CpucfgReturnsTheExampleWords := by
  unfold Obligations.CpucfgReturnsTheExampleWords
  intro cc5 rd rj s hrd hrj hrd0
  refine ⟨_, cpucfgWith_eq_next_afterCpucfg _ s hrd hrj, ?_⟩
  have hvalue : readReg (afterCpucfg (exampleConfig cc5) rd rj s) rd =
      widen .sext (cfgExample cc5 (readReg s rj).toNat) := readReg_afterCpucfg_same _ s hrd hrd0
  rw [hvalue]
  refine ⟨fun p hp => ?listed, fun hnumber => ?five, fun hn => ?unlisted⟩
  case listed =>
    suffices h : p.1.toNat ≠ 5 ∧ widen .sext (cfgExample 0#32 p.1.toNat) = p.2 from
      fun hnumber => by rw [hnumber, cfgExample_of_ne_five cc5 h.1, h.2]
    fin_cases hp <;> exact ⟨by decide, rfl⟩
  case five => rw [hnumber]; rfl
  case unlisted => rw [cfgExample_of_not_listed cc5 hn]; rfl

theorem fieldWord_lt (f : CfgField) : fieldWord f < 2 ^ 64 := by
  cases f <;> decide

/-- Settles O12: the field is in the lower half, which no widening changes. -/
theorem featureTestReadsTheField : Obligations.FeatureTestReadsTheField := by
  unfold Obligations.FeatureTestReadsTheField
  intro f rd rj s hrd hrj hrd0 hnumber
  have hword : (readReg s rj).toNat = fieldWord f := by
    rw [hnumber, BitVec.toNat_ofNat, Nat.mod_eq_of_lt (fieldWord_lt f)]
  refine ⟨_, exec_cpucfg_eq_next s hrd hrj, ?_⟩
  rw [readReg_afterCpucfg_same _ s hrd hrd0, hword, fieldInReg, setWidth_widen, readField]

end Sys2Proof.Machine
end

section
/-! PROOFS. The step: what it answers in every state, what it keeps, and a run of consecutive words (95_test_vectors V7;
70_reset_and_hazards R148, R149; 20_memory R26). -/

namespace Sys2Proof.Machine

/-! ### What a step answers -/

theorem isFinal_iff (s : State) : isFinal s = true ↔ endOf s = some s.pc := by
  rw [isFinal, decide_eq_true_iff]

section
variable {s : State} {w : InsnWord}

/-- `END` is outside `TEXT`, so a state with a word to fetch is not final. -/
theorem isFinal_eq_false_of_fetch (hfetch : fetch s = some w) : isFinal s = false := by
  refine Bool.eq_false_iff.2 fun hfinal => ?_
  have houtside : textAt s.mem s.pc.toNat = none := endOf_not_in_text s s.pc ((isFinal_iff s).1 hfinal)
  exact Option.some_ne_none w (hfetch.symm.trans houtside)

theorem step_of_final (hfinal : isFinal s = true) : step s = .fault .runOver := by
  rw [step, stepBy, if_pos hfinal]

theorem step_of_fetch_none (hfinal : isFinal s = false) (hfetch : fetch s = none) :
    step s = .fault .fetchOutsideText := by
  rw [step, stepBy, hfinal, if_neg Bool.false_ne_true, hfetch]

theorem step_of_decodeWord_none (hfetch : fetch s = some w) (hdecode : decodeWord w = none) :
    step s = .refused (.notInSpec w) := by
  rw [step, stepBy, isFinal_eq_false_of_fetch hfetch, if_neg Bool.false_ne_true, hfetch]
  simp only [hdecode]

theorem step_of_decodeWord_some {i : Instr} (hfetch : fetch s = some w) (hdecode : decodeWord w = some i) :
    step s = exec i s := by
  rw [step, stepBy, isFinal_eq_false_of_fetch hfetch, if_neg Bool.false_ne_true, hfetch]
  simp only [hdecode]

/-- A word with the fixed bits of `CPUCFG` has a next state (30_encoding R40). -/
theorem exists_step_next_of_match (hfetch : fetch s = some w) (hmatch : w &&& cpucfgMask = cpucfgMatch) :
    ∃ t, step s = .next t := by
  have hdecode : decodeWord w = some (.cpucfg (fieldRd w) (fieldRj w)) := if_pos hmatch
  rw [step_of_decodeWord_some hfetch hdecode]
  exact exec_next_of_wf s (wf_of_decodeWord hdecode)

end

/-- Settles O18: what is at `pc`, and whether `pc` is `END`, decide the step. -/
theorem stepOutcomeByWhereThePcIs : Obligations.StepOutcomeByWhereThePcIs := by
  unfold Obligations.StepOutcomeByWhereThePcIs
  refine fun s => ⟨fun w hfetch => exists_step_next_of_match hfetch, fun w hfetch hother => ?refused,
    fun _ hend => step_of_final ((isFinal_iff s).2 hend), fun hfetch hend => ?stuck⟩
  case refused =>
    have hdecode : decodeWord w = none := if_neg hother
    exact step_of_decodeWord_none hfetch hdecode
  case stuck =>
    exact step_of_fetch_none (Bool.eq_false_iff.2 fun hfinal => hend ((isFinal_iff s).1 hfinal)) hfetch

/-- Bytes that decode to one instruction and nothing after it are the bytes of a word that decodes to it. -/
theorem readWord_of_decode {m : Memory} {a : Nat} {bs : List Byte} {i : Instr}
    (hbytes : Memory.readWordBytes m a = some bs) (hdecode : decode bs = .instr i []) :
    ∃ w, Memory.readWord m a = some w ∧ decodeWord w = some i := by
  have hfour : ∃ b0 b1 b2 b3, bs = [b0, b1, b2, b3] := by
    rw [Memory.readWordBytes] at hbytes
    split at hbytes
    · exact ⟨_, _, _, _, (Option.some.inj hbytes).symm⟩
    · cases hbytes
  obtain ⟨b0, b1, b2, b3, rfl⟩ := hfour
  exact ⟨wordOfBytes b0 b1 b2 b3, by rw [Memory.readWord, hbytes],
    ((decode_cons_eq_instr_iff b0 b1 b2 b3 [] [] i).1 hdecode).1⟩

/-- Settles O17: at an aligned `pc` the bytes are the word fetched. -/
theorem stepRunsTheDecodedInstruction : Obligations.StepRunsTheDecodedInstruction := by
  unfold Obligations.StepRunsTheDecodedInstruction
  intro s bs i haligned hbytes hdecode
  obtain ⟨w, hword, hi⟩ := readWord_of_decode hbytes hdecode
  exact step_of_decodeWord_some (by rw [fetch, textAt, if_pos haligned, hword]) hi

/-! ### Standings -/

/-- What the step of a state with a given standing answers, and why it has that standing where it fetches a word. -/
def StepAt (s : State) : Standing → Prop
  | .final => step s = .fault .runOver
  | .stuck => step s = .fault .fetchOutsideText
  | .refusedNext => ∃ w, fetch s = some w ∧ step s = .refused (.notInSpec w)
  | .runs i => (∃ w, fetch s = some w ∧ decodeWord w = some i) ∧ step s = exec i s

theorem stepAt_standing (s : State) : StepAt s (standing s) := by
  rw [standing]
  cases hfinal : isFinal s with
  | true => exact step_of_final hfinal
  | false =>
    cases hfetch : fetch s with
    | none => exact step_of_fetch_none hfinal hfetch
    | some w =>
      cases hdecode : decodeWord w with
      | none => simpa [hdecode, StepAt] using ⟨w, hfetch, step_of_decodeWord_none hfetch hdecode⟩
      | some i => simpa [hdecode, StepAt] using ⟨⟨w, hfetch, hdecode⟩, step_of_decodeWord_some hfetch hdecode⟩

/-- A state that runs an instruction has a next state. -/
theorem exists_next_of_runs {s : State} {i : Instr} (h : standing s = .runs i) :
    i.wf = true ∧ ∃ t, step s = .next t ∧ exec i s = .next t := by
  obtain ⟨⟨w, -, hdecode⟩, hstep⟩ : StepAt s (.runs i) := h ▸ stepAt_standing s
  have hwf := wf_of_decodeWord hdecode
  obtain ⟨t, ht⟩ := exec_next_of_wf s hwf
  exact ⟨hwf, t, hstep.trans ht, ht⟩

/-- Only a state that runs an instruction has a next state. -/
theorem runs_of_step_next {s t : State} (h : step s = .next t) : ∃ i, standing s = .runs i := by
  have hat := stepAt_standing s
  cases hstanding : standing s with
  | runs i => exact ⟨i, rfl⟩
  | final =>
    rw [hstanding, StepAt, h] at hat
    cases hat
  | stuck =>
    rw [hstanding, StepAt, h] at hat
    cases hat
  | refusedNext =>
    rw [hstanding, StepAt] at hat
    obtain ⟨w, -, hrefused⟩ := hat
    cases h.symm.trans hrefused

/-- Settles O23: the step is that of the standing. -/
theorem standingTellsTheStep : Obligations.StandingTellsTheStep := by
  unfold Obligations.StandingTellsTheStep
  intro s
  have hat (st : Standing) (h : standing s = st) : StepAt s st := h ▸ stepAt_standing s
  refine ⟨hat .final, hat .stuck, hat .refusedNext, fun i => exists_next_of_runs, or_congr_right ⟨?_, ?_⟩⟩
  · exact fun ⟨t, ht⟩ => runs_of_step_next ht
  · exact fun ⟨i, hi⟩ => (exists_next_of_runs hi).2.imp fun t ht => ht.1

/-! ### What a step keeps -/

/-- The state after a step is the one some `CPUCFG` leaves. -/
theorem step_next_afterCpucfg {s t : State} (h : step s = .next t) :
    ∃ rd rj, rd < 32 ∧ t = afterCpucfg Config.chip rd rj s := by
  obtain ⟨-, w, i, -, -, hexec⟩ := step_next s t h
  obtain ⟨rd, rj, -, hrd, -, ht⟩ := exec_next i s t hexec
  exact ⟨rd, rj, hrd, ht⟩

/-- Settles O19: the one register is the `rd` of the instruction run. -/
theorem stepChangesOneRegisterAndThePc : Obligations.StepChangesOneRegisterAndThePc := by
  unfold Obligations.StepChangesOneRegisterAndThePc
  intro s t h
  obtain ⟨rd, rj, hrd, rfl⟩ := step_next_afterCpucfg h
  refine ⟨afterCpucfg_mem _ s, afterCpucfg_endAt _ s, endOf_afterCpucfg _ s, ?pc, rd,
    fun r hr => readReg_afterCpucfg_of_ne _ s hrd hr⟩
  case pc => rw [afterCpucfg, advancePc_pc_toNat, writeReg_pc]

/-- Settles O20: 4 divides both the advance of `pc` and 2^64, memory stays, and no write reaches slot 0. -/
theorem stepKeepsTheInvariant : Obligations.StepKeepsTheInvariant := by
  unfold Obligations.StepKeepsTheInvariant
  intro s t ⟨haligned, hmem, hzero⟩ h
  obtain ⟨-, -, -, hpc, -⟩ := stepChangesOneRegisterAndThePc s t h
  obtain ⟨rd, rj, -, rfl⟩ := step_next_afterCpucfg h
  refine ⟨?aligned, ?memory, ?slot0⟩
  case aligned => omega
  case memory => rw [afterCpucfg_mem, hmem]
  case slot0 => rw [afterCpucfg_regs_zero, hzero]

/-- Settles O21: reset holds zeros and an empty memory. -/
theorem resetMeetsTheInvariant : Obligations.ResetMeetsTheInvariant := by
  unfold Obligations.ResetMeetsTheInvariant
  refine ⟨⟨rfl, rfl, rfl⟩, fun r => ?regs, rfl, fun a => rfl, rfl⟩
  case regs =>
    rw [readReg, State.reset, Vector.getElem?_replicate]
    split
    · rfl
    · split <;> rfl

/-! ### Placing an instruction -/

theorem alignDown_toNat (a : Word) : (alignDown a).toNat = a.toNat / 2 ^ 2 * 2 ^ 2 := by
  have hmask : ~~~3#64 = BitVec.allOnes 64 <<< 2 := by decide
  rw [alignDown, hmask, toNat_and_allOnes_shiftLeft]

theorem alignDown_of_aligned {a : Word} (ha : a.toNat % 4 = 0) : alignDown a = a := by
  refine BitVec.eq_of_toNat_eq ?_
  rw [alignDown_toNat]
  omega

theorem fetch_placeWord (s : State) (w : InsnWord) : fetch (placeWord s w) = some w := by
  have haligned : (alignDown s.pc).toNat % 4 = 0 := by
    rw [alignDown_toNat]
    exact Nat.mul_mod_left _ 4
  rw [fetch, placeWord_mem, placeWord_pc, textAt_writeWord _ _ _ _ haligned, if_pos rfl]

theorem readReg_placeWord (s : State) (w : InsnWord) (r : Nat) : readReg (placeWord s w) r = readReg s r := by
  rw [readReg, readReg, placeWord_regs]

/-- Settles O22: the word placed is the word fetched. -/
theorem placedInstructionRunsNext : Obligations.PlacedInstructionRunsNext := by
  unfold Obligations.PlacedInstructionRunsNext
  intro s w i h
  rw [decodeTableWord_eq] at h
  exact ⟨step_of_decodeWord_some (fetch_placeWord s _) h, readReg_placeWord s _, placeWord_endAt s _,
    alignDown_of_aligned⟩

/-! ### Runs -/

theorem run_succ_of_step (M : Host.Core) {s s' : M.State} (hstep : M.step s = .next s') (k : Nat) :
    M.run (k + 1) s = M.run k s' := by
  rw [Host.Core.run, hstep]

/-- Settles O24, by induction on the number of words: after the first, the others are at the next `pc`. -/
theorem straightTextRunsToItsEnd : Obligations.StraightTextRunsToItsEnd := by
  unfold Obligations.StraightTextRunsToItsEnd
  intro k
  induction k with
  | zero =>
    intro s _
    refine ⟨s, rfl, ?pc, rfl, rfl, fun hend => ?final⟩
    case pc => exact (Nat.mod_eq_of_lt s.pc.isLt).symm
    case final =>
      have hfinal := (isFinal_iff s).2 hend
      exact ⟨hfinal, step_of_final hfinal⟩
  | succ k ih =>
    intro s hwords
    obtain ⟨w, hfetch, hmatch⟩ := hwords 0 (Nat.succ_pos k)
    rw [Nat.mul_zero, Nat.add_zero, Nat.mod_eq_of_lt s.pc.isLt] at hfetch
    obtain ⟨s', hstep⟩ := exists_step_next_of_match hfetch hmatch
    obtain ⟨hmem, hendAt, hend, hpc, -⟩ := stepChangesOneRegisterAndThePc s s' hstep
    have hplace (j : Nat) : (s'.pc.toNat + 4 * j) % 2 ^ 64 = (s.pc.toNat + 4 * (j + 1)) % 2 ^ 64 := by omega
    obtain ⟨t, hrun, htpc, htmem, htend, hfinal⟩ := ih s' fun j hj => by
      rw [hmem, hplace]
      exact hwords (j + 1) (Nat.succ_lt_succ hj)
    exact ⟨t, (run_succ_of_step Sys2Proof.core hstep k).trans hrun, htpc.trans (hplace k), htmem.trans hmem,
      htend.trans hendAt, fun h => hfinal (hend.trans h)⟩

end Sys2Proof.Machine
end

section
/-! PROOFS. The launch: the memory it places is `TEXT`, its `END`, its state, and which launches are refused (95_test_vectors
V7; 70_reset_and_hazards R146, R148). -/

namespace Sys2Proof.Machine

/-! ### The list that writes `TEXT` -/

section
variable {t : List (Nat × InsnWord)} {lo : Nat}

/-- What a well-formed list says of its head and its tail. -/
theorem textOk_cons_iff (lo a : Nat) (w : InsnWord) (rest : List (Nat × InsnWord)) :
    textOk lo ((a, w) :: rest) = true ↔
      lo ≤ a ∧ a % 4 = 0 ∧ a < 2 ^ 64 ∧ textOk (a + 4) rest = true := by
  simp only [textOk, Bool.and_eq_true, decide_eq_true_eq, and_assoc]

theorem lookup_cons_eq_ite (c a : Nat) (w : InsnWord) (rest : List (Nat × InsnWord)) :
    List.lookup c ((a, w) :: rest) = if c = a then some w else rest.lookup c := by
  rw [List.lookup_cons]
  by_cases h : c = a
  · rw [if_pos h, beq_iff_eq.2 h]
  · rw [if_neg h, beq_eq_false_iff_ne.2 h]

/-- The addresses rise, so none is below the bound. -/
theorem lookup_eq_none_of_lt (ht : textOk lo t = true) {c : Nat} (hc : c < lo) : t.lookup c = none := by
  induction t generalizing lo with
  | nil => rfl
  | cons e rest ih =>
    obtain ⟨a, w⟩ := e
    obtain ⟨hlo, -, -, hrest⟩ := (textOk_cons_iff lo a w rest).1 ht
    rw [lookup_cons_eq_ite, if_neg (by omega), ih hrest (by omega)]

theorem le_of_lookup_isSome (ht : textOk lo t = true) {c : Nat} (hc : (t.lookup c).isSome = true) : lo ≤ c := by
  by_contra hlt
  rw [lookup_eq_none_of_lt ht (by omega)] at hc
  cases hc

/-- The word read after a list is placed is the one it gives, and what was there where it gives none. -/
theorem textAt_placeText (m : Memory) (ht : textOk lo t = true) (c : Nat) :
    textAt (placeText m t) c = (t.lookup c).or (textAt m c) := by
  induction t generalizing lo m with
  | nil => rfl
  | cons e rest ih =>
    obtain ⟨a, w⟩ := e
    obtain ⟨-, haligned, -, hrest⟩ := (textOk_cons_iff lo a w rest).1 ht
    rw [placeText, ih _ hrest, textAt_writeWord _ _ _ _ haligned, lookup_cons_eq_ite]
    by_cases hc : c = a
    · rw [if_pos hc, if_pos hc, hc, lookup_eq_none_of_lt hrest (by omega)]
      rfl
    · rw [if_neg hc, if_neg hc]

/-- `TEXT` as a launch places it is the list as a finite map. -/
theorem textAt_placeText_nil (ht : textOk lo t = true) (c : Nat) : textAt (placeText [] t) c = t.lookup c := by
  have hempty : textAt [] c = none := by
    rw [textAt]
    split <;> rfl
  rw [textAt_placeText [] ht, hempty, Option.or_none]

theorem lookup_getLast_isSome {p : Nat × InsnWord} (hp : t.getLast? = some p) : (t.lookup p.1).isSome = true :=
  List.lookup_isSome_iff.2 ⟨p, List.mem_of_getLast? hp, beq_self_eq_true p.1⟩

/-- The last entry of the list has the greatest address. -/
theorem le_getLast_of_lookup (ht : textOk lo t = true) {p : Nat × InsnWord} (hp : t.getLast? = some p) {c : Nat}
    (hc : (t.lookup c).isSome = true) : c ≤ p.1 := by
  induction t generalizing lo with
  | nil => cases hp
  | cons e rest ih =>
    obtain ⟨a, w⟩ := e
    obtain ⟨-, -, -, hrest⟩ := (textOk_cons_iff lo a w rest).1 ht
    rw [lookup_cons_eq_ite] at hc
    cases hlast : rest.getLast? with
    | none =>
      obtain rfl := List.getLast?_eq_none_iff.1 hlast
      obtain rfl := Option.some.inj hp
      by_contra hne
      rw [if_neg fun hca => hne hca.le] at hc
      cases hc
    | some q =>
      obtain rfl : q = p := by rwa [List.getLast?_cons, hlast, Option.getD_some, Option.some_inj] at hp
      have hq : a + 4 ≤ q.1 := le_of_lookup_isSome hrest (lookup_getLast_isSome hlast)
      split at hc
      · omega
      · exact ih hrest hlast hc

end

/-! ### `END` -/

theorem mem_addresses_of_readByte {m : Memory} {a : Nat} {b : Byte} (h : Memory.readByte m a = some b) :
    a ∈ m.map Prod.fst := by
  induction m with
  | nil => cases h
  | cons e rest ih =>
    rw [Memory.readByte] at h
    split at h
    case isTrue ha => exact ha ▸ List.mem_cons_self
    case isFalse => exact List.mem_cons_of_mem _ (ih h)

/-- The addresses of the instructions of `TEXT` are its domain. -/
theorem mem_textAddrs_iff (m : Memory) (a : Nat) : a ∈ textAddrs m ↔ (textAt m a).isSome = true := by
  rw [textAddrs, List.mem_filter, and_iff_right_iff_imp]
  intro h
  cases hbyte : Memory.readByte m a with
  | some b => exact mem_addresses_of_readByte hbyte
  | none => simp [textAt, Memory.readWord, Memory.readWordBytes, hbyte] at h

/-- The default `END` follows the last entry of the list. -/
theorem defaultEnd_placeText {t : List (Nat × InsnWord)} (ht : textOk 0 t = true) {p : Nat × InsnWord}
    (hp : t.getLast? = some p) : defaultEnd (placeText [] t) = some (BitVec.ofNat 64 (p.1 + 4)) := by
  have hdomain (a : Nat) : a ∈ textAddrs (placeText [] t) ↔ (t.lookup a).isSome = true := by
    rw [mem_textAddrs_iff, textAt_placeText_nil ht]
  have hmax : (textAddrs (placeText [] t)).max? = some p.1 :=
    List.max?_eq_some_iff.2 ⟨(hdomain p.1).2 (lookup_getLast_isSome hp),
      fun a ha => le_getLast_of_lookup ht hp ((hdomain a).1 ha)⟩
  rw [defaultEnd, hmax, Option.map_some]

section
variable {l : Launch}

/-- The `END` asked for is `END`, where it is outside `TEXT`. -/
theorem endOf_launchState (h : endClashes l = false) :
    endOf (launchState l) = requestedEnd l.endAt (placeText [] l.text) := by
  rw [endClashes] at h
  rw [endOf, launchState_endAt, launchState_mem]
  cases hrequest : requestedEnd l.endAt (placeText [] l.text) with
  | none => rfl
  | some a =>
    rw [hrequest] at h
    simp [h]

theorem requestedEnd_of_named {e : Word} (hend : l.endAt = some e) :
    requestedEnd l.endAt (placeText [] l.text) = some e := by
  rw [hend, requestedEnd]

theorem requestedEnd_of_unnamed (htext : textOk 0 l.text = true) (hend : l.endAt = none) {p : Nat × InsnWord}
    (hp : l.text.getLast? = some p) :
    requestedEnd l.endAt (placeText [] l.text) = some (BitVec.ofNat 64 (p.1 + 4)) := by
  rw [hend, requestedEnd, defaultEnd_placeText htext hp]

end

/-! ### An accepted launch -/

theorem readReg_launchState (l : Launch) {r : Nat} (hr : r < 32) (hr0 : r ≠ 0) :
    readReg (launchState l) r = l.regs[r] := by
  rw [readReg, if_neg hr0, launchState_regs, Vector.getElem?_setIfInBounds_ne hr0.symm, Vector.getElem?_eq_getElem hr,
    Option.getD_some]

/-- Settles O25: the launch state, whose memory is placed from empty. -/
theorem launchStateIsThePremise : Obligations.LaunchStateIsThePremise := by
  unfold Obligations.LaunchStateIsThePremise
  intro l s h
  obtain ⟨htext, haligned, -, -, rfl⟩ := launch_next l s h
  have hslot0 : (launchState l).regs[0] = 0#64 := Vector.getElem_setIfInBounds_self _
  exact ⟨rfl, rfl, fun r hr hr0 => readReg_launchState l hr hr0,
    haligned, placeText_wf l.text 0 [] htext rfl, hslot0⟩

/-- Settles O26: the memory read back is the list. -/
theorem launchPlacesTheText : Obligations.LaunchPlacesTheText := by
  unfold Obligations.LaunchPlacesTheText
  intro l s h a
  obtain ⟨htext, -, -, -, rfl⟩ := launch_next l s h
  exact textAt_placeText_nil htext a

/-- Settles O27: an accepted launch has the `END` it asks for. -/
theorem launchFixesTheEnd : Obligations.LaunchFixesTheEnd := by
  unfold Obligations.LaunchFixesTheEnd
  intro l s h
  obtain ⟨htext, -, -, hclash, rfl⟩ := launch_next l s h
  have hend := endOf_launchState hclash
  exact ⟨fun e he => hend.trans (requestedEnd_of_named he),
    fun p hnone hp => hend.trans (requestedEnd_of_unnamed htext hnone hp)⟩

/-! ### Which launches are accepted -/

section
variable {l : Launch} (htext : textOk 0 l.text = true)
include htext

theorem fetch_launchState : fetch (launchState l) = l.text.lookup l.entry.toNat := by
  rw [fetch, launchState_mem, launchState_pc, textAt_placeText_nil htext]

variable {a : Word} (hrequest : requestedEnd l.endAt (placeText [] l.text) = some a)
include hrequest

theorem endClashes_eq : endClashes l = (l.text.lookup a.toNat).isSome := by
  rw [endClashes, hrequest]
  exact congrArg Option.isSome (textAt_placeText_nil htext a.toNat)

variable {w : InsnWord} (haligned : l.entry.toNat % 4 = 0) (hentry : l.text.lookup l.entry.toNat = some w)
include haligned hentry

/-- With `ENTRY` an address of `TEXT`, where the `END` asked for lies decides. -/
theorem launch_eq :
    launch l =
      if (l.text.lookup a.toNat).isSome then .refused .endInsideText else .next (launchState l) := by
  rw [launch, htext, fetch_launchState htext, hentry, endClashes_eq htext hrequest, if_neg Bool.noConfusion,
    if_neg (not_not_intro haligned), if_neg Bool.noConfusion]

theorem launch_refused_of_end_in_text {x : InsnWord} (hinside : l.text.lookup a.toNat = some x) :
    launch l = .refused .endInsideText := by
  rw [launch_eq htext hrequest haligned hentry, hinside]
  rfl

theorem launch_accepted_of_end_outside (houtside : l.text.lookup a.toNat = none) : ∃ s, launch l = .next s := by
  rw [launch_eq htext hrequest haligned hentry, houtside]
  exact ⟨_, rfl⟩

end

/-- Settles O28: the checks in their order, the last on the `END` named or else the default one. -/
theorem launchIsRefusedOrAccepted : Obligations.LaunchIsRefusedOrAccepted := by
  unfold Obligations.LaunchIsRefusedOrAccepted
  have hwraps (n : Nat) : (BitVec.ofNat 64 n).toNat = n % 2 ^ 64 := BitVec.toNat_ofNat n 64
  intro l
  refine ⟨fun htext => ?malformed, fun htext haligned => ?misaligned, fun htext haligned hentry => ?outside,
    fun w e x htext haligned hentry hend => ?namedInside, fun w e htext haligned hentry hend => ?namedOutside,
    fun w p htext haligned hentry hend hp => ?defaultOutside, fun w p x htext haligned hentry hend hp => ?defaultInside⟩
  case malformed => rw [launch, if_pos htext]
  case misaligned => rw [launch, htext, if_neg Bool.noConfusion, if_pos haligned]
  case outside =>
    rw [launch, htext, fetch_launchState htext, hentry, if_neg Bool.noConfusion, if_neg (not_not_intro haligned)]
    rfl
  case namedInside => exact launch_refused_of_end_in_text htext (requestedEnd_of_named hend) haligned hentry
  case namedOutside => exact launch_accepted_of_end_outside htext (requestedEnd_of_named hend) haligned hentry
  case defaultOutside =>
    rw [← hwraps]
    exact launch_accepted_of_end_outside htext (requestedEnd_of_unnamed htext hend hp) haligned hentry
  case defaultInside =>
    rw [← hwraps]
    exact launch_refused_of_end_in_text htext (requestedEnd_of_unnamed htext hend hp) haligned hentry

end Sys2Proof.Machine
end

section
/-! PROOFS. Words as compositions of their fields, bit by bit: each bit of a word is in one field or in none (10_state R18;
00_scope R5; 41_cpucfg_words_core and 42_cpucfg_words_cache, the composition of each word). -/

namespace Sys2Proof.Machine

/-! ### The bits of a field -/

/-- A field is the bits from its lowest on, as many as it is wide (R5). -/
theorem getLsbD_fieldMask_iff (f : CfgField) (i : Nat) :
    (fieldMask f).getLsbD i = true ↔ fieldLo f ≤ i ∧ i < fieldLo f + fieldWidth f := by
  have hinside := fieldLo_add_fieldWidth_le f
  rw [fieldMask, BitVec.getLsbD_ofNat, Nat.testBit_mul_two_pow, Nat.testBit_two_pow_sub_one]
  simp only [Bool.and_eq_true, decide_eq_true_eq]
  omega

theorem lt_32_of_fieldMask {f : CfgField} {i : Nat} (hi : (fieldMask f).getLsbD i = true) : i < 32 :=
  BitVec.lt_of_getLsbD hi

theorem fieldOf_lt (f : CfgField) (w : CfgWord) : fieldOf f w < 2 ^ fieldWidth f :=
  BitVec.isLt _

/-- The bits of a field's value are the word's bits at the field's place. -/
theorem testBit_fieldOf {f : CfgField} {i : Nat} (w : CfgWord) (hi : (fieldMask f).getLsbD i = true) :
    (fieldOf f w).testBit (i - fieldLo f) = w.getLsbD i := by
  obtain ⟨hmin, hmax⟩ := (getLsbD_fieldMask_iff f i).1 hi
  have hwidth : i - fieldLo f < fieldHi f - fieldLo f + 1 := by
    rw [fieldWidth] at hmax
    omega
  rw [fieldOf, bitsOf, BitVec.testBit_toNat, BitVec.getLsbD_extractLsb, decide_eq_true hwidth, Bool.true_and,
    Nat.add_sub_cancel' hmin]

/-- The fields of a word do not overlap. -/
theorem pairwise_disjoint_fieldsOfWord (n : Nat) :
    (fieldsOfWord n).Pairwise fun f g => fieldMask f &&& fieldMask g = 0#32 := by
  unfold fieldsOfWord
  split
  case h_12 => exact List.Pairwise.nil
  all_goals decide

theorem eq_of_fieldMask_of_fieldMask {n i : Nat} {f g : CfgField} (hf : f ∈ fieldsOfWord n) (hg : g ∈ fieldsOfWord n)
    (hfi : (fieldMask f).getLsbD i = true) (hgi : (fieldMask g).getLsbD i = true) : f = g := by
  have : Std.Symm fun f g => fieldMask f &&& fieldMask g = 0#32 :=
    ⟨fun f g h => by rw [BitVec.and_comm, h]⟩
  by_contra hne
  have hdisjoint := (pairwise_disjoint_fieldsOfWord n).forall hf hg hne
  have hbit : (fieldMask f &&& fieldMask g).getLsbD i = true := by rw [BitVec.getLsbD_and, hfi, hgi, Bool.and_self]
  rw [hdisjoint, BitVec.getLsbD_zero] at hbit
  cases hbit

/-! ### The bits of a composed word -/

theorem getLsbD_foldl_or_iff (l : List CfgField) (part : CfgField → CfgWord) (x : CfgWord) (i : Nat) :
    (l.foldl (fun acc f => acc ||| part f) x).getLsbD i = true ↔
      x.getLsbD i = true ∨ ∃ f ∈ l, (part f).getLsbD i = true := by
  induction l generalizing x with
  | nil => simp
  | cons g rest ih => rw [List.foldl_cons, ih, BitVec.getLsbD_or, Bool.or_eq_true, List.exists_mem_cons_iff, or_assoc]

theorem getLsbD_assignedMask_iff (n i : Nat) :
    (assignedMask n).getLsbD i = true ↔ ∃ f ∈ fieldsOfWord n, (fieldMask f).getLsbD i = true := by
  rw [assignedMask, getLsbD_foldl_or_iff, BitVec.getLsbD_zero]
  exact or_iff_right Bool.false_ne_true

section
variable {n i : Nat} (v : CfgField → Nat) (u : CfgWord)

theorem getLsbD_composeWord_iff :
    (composeWord n v u).getLsbD i = true ↔
      (u &&& ~~~ assignedMask n).getLsbD i = true ∨
        ∃ f ∈ fieldsOfWord n, (fieldMask f).getLsbD i = true ∧ (v f).testBit (i - fieldLo f) = true := by
  rw [composeWord, getLsbD_foldl_or_iff]
  refine or_congr_right (exists_congr fun f => and_congr_right fun _ => ?_)
  rw [BitVec.getLsbD_and, Bool.and_eq_true, and_comm, and_congr_right_iff]
  intro hi
  have hmin := ((getLsbD_fieldMask_iff f i).1 hi).1
  rw [BitVec.getLsbD_ofNat, Nat.testBit_mul_two_pow, decide_eq_true (lt_32_of_fieldMask hi), decide_eq_true hmin,
    Bool.true_and, Bool.true_and]

/-- In a field, the composed word has the bits of the field's value. -/
theorem getLsbD_composeWord_of_assigned {f : CfgField} (hf : f ∈ fieldsOfWord n)
    (hi : (fieldMask f).getLsbD i = true) :
    (composeWord n v u).getLsbD i = (v f).testBit (i - fieldLo f) := by
  have hassigned : (assignedMask n).getLsbD i = true := (getLsbD_assignedMask_iff n i).2 ⟨f, hf, hi⟩
  rw [Bool.eq_iff_iff, getLsbD_composeWord_iff, BitVec.getLsbD_and, BitVec.getLsbD_not, hassigned]
  constructor
  · rintro (h | ⟨g, hg, hgi, hbit⟩)
    · simp at h
    · rwa [eq_of_fieldMask_of_fieldMask hf hg hi hgi]
  · exact fun hbit => .inr ⟨f, hf, hi, hbit⟩

/-- Outside its fields, the composed word has the unassigned bits given. -/
theorem getLsbD_composeWord_of_unassigned (hlt : i < 32) (hi : (assignedMask n).getLsbD i = false) :
    (composeWord n v u).getLsbD i = u.getLsbD i := by
  have hnone : ¬∃ f ∈ fieldsOfWord n, (fieldMask f).getLsbD i = true ∧ (v f).testBit (i - fieldLo f) = true := by
    rintro ⟨f, hf, hfi, -⟩
    exact Bool.eq_false_iff.1 hi ((getLsbD_assignedMask_iff n i).2 ⟨f, hf, hfi⟩)
  rw [Bool.eq_iff_iff, getLsbD_composeWord_iff, or_iff_left hnone, BitVec.getLsbD_and, BitVec.getLsbD_not, hi,
    decide_eq_true hlt, Bool.not_false, Bool.and_self, Bool.and_true]

end

/-! ### The two directions -/

/-- Settles O30: every bit is in a field, where it is the field's, or in none, where it is the word's own. -/
theorem wordsAreComposedOfTheirFields : Obligations.WordsAreComposedOfTheirFields := by
  unfold Obligations.WordsAreComposedOfTheirFields
  intro n _ w
  refine BitVec.eq_of_getLsbD_eq fun i hlt => ?_
  cases hassigned : (assignedMask n).getLsbD i with
  | true =>
    obtain ⟨f, hf, hi⟩ := (getLsbD_assignedMask_iff n i).1 hassigned
    rw [getLsbD_composeWord_of_assigned _ w hf hi, testBit_fieldOf w hi]
  | false => exact getLsbD_composeWord_of_unassigned _ w hlt hassigned

/-- A value that fits its field is read back from the word composed of it. -/
theorem fieldOf_composeWord (f : CfgField) (v : CfgField → Nat) (u : CfgWord) (hfits : v f < 2 ^ fieldWidth f) :
    fieldOf f (composeWord (fieldWord f) v u) = v f := by
  refine Nat.eq_of_testBit_eq fun j => ?_
  by_cases hj : j < fieldWidth f
  · have hi : (fieldMask f).getLsbD (fieldLo f + j) = true := (getLsbD_fieldMask_iff f _).2 (by omega)
    have hread := testBit_fieldOf (composeWord (fieldWord f) v u) hi
    rwa [getLsbD_composeWord_of_assigned v u (mem_fieldsOfWord_fieldWord f) hi, Nat.add_sub_cancel_left] at hread
  · have hwide : 2 ^ fieldWidth f ≤ 2 ^ j := Nat.pow_le_pow_right Nat.two_pos (by omega)
    rw [Nat.testBit_lt_two_pow ((fieldOf_lt f _).trans_le hwide), Nat.testBit_lt_two_pow (hfits.trans_le hwide)]

theorem composeWord_and_not_assignedMask (n : Nat) (v : CfgField → Nat) (u : CfgWord) :
    composeWord n v u &&& ~~~ assignedMask n = u &&& ~~~ assignedMask n := by
  refine BitVec.eq_of_getLsbD_eq fun i hlt => ?_
  rw [BitVec.getLsbD_and, BitVec.getLsbD_and, BitVec.getLsbD_not]
  cases hassigned : (assignedMask n).getLsbD i with
  | true => simp
  | false => rw [getLsbD_composeWord_of_unassigned v u hlt hassigned]

/-- Settles O31: no bit is in two fields. -/
theorem composedFieldsReadBack : Obligations.ComposedFieldsReadBack := by
  unfold Obligations.ComposedFieldsReadBack
  exact fun f v u hfits => ⟨fieldOf_composeWord f v u (hfits f), composeWord_and_not_assignedMask _ v u⟩

end Sys2Proof.Machine
end

section
/-! PROOFS. What `CFG_EXAMPLE` holds, `RVAMAX`, and the capacity and the absence of caches (10_state R20; 41_cpucfg_words_core
R90; 42_cpucfg_words_cache R131, R132). -/

namespace Sys2Proof.Machine

/-- The listed words of `CFG_EXAMPLE` with known values have 0 in the bits no field has (10_state R20). -/
theorem cfgExample_unassigned_of_listed :
    ∀ n ∈ listedWords, n ≠ 5 → cfgExample 0#32 n &&& ~~~ assignedMask n = 0#32 := by
  decide

/-- Settles O32: the masks are closed facts, and `CFG_EXAMPLE` does not depend on `CC5` outside word 0x5. -/
theorem unassignedBitsOfListedWords : Obligations.UnassignedBitsOfListedWords := by
  unfold Obligations.UnassignedBitsOfListedWords
  refine ⟨by decide, by decide, by decide, by decide, by decide, by decide, by decide, assignedMask_geometryWord,
    fun cc5 n hn => ?_⟩
  rw [cfgExample_of_ne_five cc5 hn]
  by_cases hlisted : n ∈ listedWords
  · exact cfgExample_unassigned_of_listed n hlisted hn
  · rw [cfgExample_of_not_listed 0#32 hlisted, BitVec.zero_and]

/-- Settles O33: the value read, like every value read, fits the field. -/
theorem exampleFieldsArePossibleValues : Obligations.ExampleFieldsArePossibleValues := by
  unfold Obligations.ExampleFieldsArePossibleValues
  intro f cc5 v hv
  have hread := readField_cfgExample cc5 hv
  exact ⟨hread, hread ▸ readField_lt (cfgExample cc5) f⟩

/-- Settles O43: the field's place, plus 1. -/
theorem rvaMaxIsFieldPlusOne : Obligations.RvaMaxIsFieldPlusOne := by
  unfold Obligations.RvaMaxIsFieldPlusOne
  refine ⟨fun cfg => congrArg (· + 1) (readField_eq_div_mod cfg .rvamaxM1), rfl, rfl, fun cc5 => ?_⟩
  have hpossible : readField (cfgExample cc5) .rvamaxM1 = 1 := readField_cfgExample cc5 rfl
  exact congrArg (· + 1) hpossible

/-- R131: sets and line bytes are powers of 2. -/
theorem cacheBytes_geometryOf (g : CfgWord) :
    cacheBytes (geometryOf g) =
      ((g.extractLsb 15 0).toNat + 1) * 2 ^ ((g.extractLsb 23 16).toNat + (g.extractLsb 30 24).toNat) := by
  rw [Nat.pow_add, ← Nat.mul_assoc]
  rfl

/-- Settles O50: the formula for every word, and the capacities of the shapes of `CFG_EXAMPLE`. -/
theorem cacheCapacities : Obligations.CacheCapacities := by
  unfold Obligations.CacheCapacities
  refine ⟨cacheBytes_geometryOf, by rw [cacheBytes_geometryOf]; rfl, fun cc5 => ?_⟩
  obtain ⟨-, -, -, hshapes⟩ := exampleCacheShapes
  obtain ⟨hl1Iu, hl1D, hl2Iu, hl3Iu⟩ := hshapes cc5
  rw [hl1Iu, hl1D, hl2Iu, hl3Iu]
  exact ⟨rfl, rfl, rfl, rfl⟩

theorem cacheGeometry_of_absent {cfg : Nat → CfgWord} {c : CacheName}
    (habsent : reports cfg (presenceField c) = false) : cacheGeometry cfg c = none := by
  rw [cacheGeometry, habsent, if_neg Bool.false_ne_true]

/-- Settles O51: the presence bit is looked at first. -/
theorem absentCachesReportNothing : Obligations.AbsentCachesReportNothing := by
  unfold Obligations.AbsentCachesReportNothing
  intro cfg c habsent
  have hreports : reports cfg (presenceField c) = false := by rw [reports, habsent]; rfl
  exact ⟨cacheRelations_of_absent hreports, cacheGeometry_of_absent hreports⟩

end Sys2Proof.Machine
end
